-- ==== Sys2Proof/Word.lean ====
section
/-! DEFINITION. The widths of RSFF: a byte of the buffer, a 32-bit bus word, a 19-bit byte offset. -/

namespace Sys2Proof

/-- A byte: a codeword, a field element, an 8-bit register (`00_scope.md` R12). -/
abbrev Byte := BitVec 8

/-- A bus word or a command word, 32 bits (`20_memory.md` R63, `30_encoding.md` R90). -/
abbrev Word := BitVec 32

/-- A byte offset in the block's window, 19 bits (`20_memory.md` R60). -/
abbrev Offset := BitVec 19

end Sys2Proof
end

