-- ==== Sys2Proof/Syntax.lean ====
section
/-! DEFINITION. The eleven commands, one constructor per row of the opcode table (`30_encoding.md` R93). -/

namespace Sys2Proof

/-- A command. The one immediate is `FF_GET`'s `ARG` (`30_encoding.md` R92); every other operand is a fixed
register (R96). -/
inductive Instr where
  /-- `NOP` (R210) -/
  | nop
  /-- `SRST`, soft reset (R211) -/
  | srst
  /-- `RS_SYN`, syndromes (R143) -/
  | rsSyn
  /-- `RS_KES`, key-equation solver (R145) -/
  | rsKes
  /-- `RS_CHN`, Chien search (R148) -/
  | rsChn
  /-- `RS_FNY`, error values (R150) -/
  | rsFny
  /-- `RS_APL`, verify and apply (R152) -/
  | rsApl
  /-- `RS_DEC`, the whole codec (R154) -/
  | rsDec
  /-- `FF_START`, start the cursor (R185) -/
  | ffStart
  /-- `FF_GET n`, the next `n` bits (R188) -/
  | ffGet (n : BitVec 8)
  /-- `FF_FILL`, assemble the codewords (R190) -/
  | ffFill
  deriving DecidableEq, Repr

end Sys2Proof
end

