-- ==== Sys2Proof/WellFormed.lean ====
section
/-! DEFINITION. Which commands have a legal word: the bit count of `FF_GET` is 1..8 (`30_encoding.md` R92, R94). -/

namespace Sys2Proof

/-- `ARG` of `FF_GET`: `1 <= n <= 8` (`30_encoding.md` R92). -/
def legalCount (n : BitVec 8) : Bool := decide (1 ≤ n.toNat) && decide (n.toNat ≤ 8)

/-- A command that has a legal word (`30_encoding.md` R93, R94). -/
def Instr.wellFormed (i : Instr) : Bool :=
  match i with
  | .ffGet n => legalCount n
  | .nop => true
  | .srst => true
  | .rsSyn => true
  | .rsKes => true
  | .rsChn => true
  | .rsFny => true
  | .rsApl => true
  | .rsDec => true
  | .ffStart => true
  | .ffFill => true

end Sys2Proof
end

