-- ==== Sys2Proof/Decode.lean ====
section
/-! DEFINITION. Command words: the fields of format `C` (`30_encoding.md` R91), the total decoder of R94 with
its rejections by name, and the encoder of R93. -/

namespace Sys2Proof

/-- Why a word is illegal: the branches of the procedure of `30_encoding.md` R94 that answer "illegal". -/
inductive Illegal where
  /-- `RSV != 0` -/
  | reservedNonzero
  /-- `OPC = 0x21` with `ARG` = 0 or 9..255 -/
  | badCount
  /-- an argument given to a command that takes none -/
  | argNonzero
  /-- an `OPC` that no command has -/
  | unknownOpcode
  deriving DecidableEq, Repr

/-- `OPC = word[7:0]` (`30_encoding.md` R91). -/
def opcField (w : Word) : BitVec 8 := w.extractLsb' 0 8

/-- `ARG = word[15:8]` (`30_encoding.md` R91). -/
def argField (w : Word) : BitVec 8 := w.extractLsb' 8 8

/-- `RSV = word[31:16]` (`30_encoding.md` R91). -/
def rsvField (w : Word) : BitVec 16 := w.extractLsb' 16 16

/-- The command of an `OPC` that takes no argument (`30_encoding.md` R93), `none` for an `OPC` not in R94's
set. -/
def plainCommand (opc : BitVec 8) : Option Instr :=
  if opc = 0x00 then some .nop
  else if opc = 0x01 then some .srst
  else if opc = 0x10 then some .rsSyn
  else if opc = 0x11 then some .rsKes
  else if opc = 0x12 then some .rsChn
  else if opc = 0x13 then some .rsFny
  else if opc = 0x14 then some .rsApl
  else if opc = 0x1F then some .rsDec
  else if opc = 0x20 then some .ffStart
  else if opc = 0x2F then some .ffFill
  else none

/-- `decode(word)`, in the order of `30_encoding.md` R94; total on every 32-bit word. -/
def decode (w : Word) : Except Illegal Instr :=
  if rsvField w ≠ 0 then .error .reservedNonzero
  else if opcField w = 0x21 then
    if legalCount (argField w) then .ok (.ffGet (argField w)) else .error .badCount
  else
    match plainCommand (opcField w) with
    | some i => if argField w = 0 then .ok i else .error .argNonzero
    | none => .error .unknownOpcode

/-- The `OPC` of a command (`30_encoding.md` R93). -/
def opcOf (i : Instr) : BitVec 8 :=
  match i with
  | .nop => 0x00
  | .srst => 0x01
  | .rsSyn => 0x10
  | .rsKes => 0x11
  | .rsChn => 0x12
  | .rsFny => 0x13
  | .rsApl => 0x14
  | .rsDec => 0x1F
  | .ffStart => 0x20
  | .ffGet _ => 0x21
  | .ffFill => 0x2F

/-- The `ARG` of a command (`30_encoding.md` R93): 0 but for `FF_GET n`. -/
def argOf (i : Instr) : BitVec 8 :=
  match i with
  | .ffGet n => n
  | .nop => 0
  | .srst => 0
  | .rsSyn => 0
  | .rsKes => 0
  | .rsChn => 0
  | .rsFny => 0
  | .rsApl => 0
  | .rsDec => 0
  | .ffStart => 0
  | .ffFill => 0

/-- The command word of a command: `RSV = 0`, `ARG`, `OPC` (`30_encoding.md` R91, R93). -/
def encode (i : Instr) : Word := (argOf i).setWidth 32 <<< 8 ||| (opcOf i).setWidth 32

/-- The instruction the decoder reads from a table word: a command is one 32-bit word (`30_encoding.md` R90),
the bits above `nbits` are 0, and there is no longer command. -/
def decodeTableWord (nbits w : Nat) : Option Instr :=
  if nbits ≤ 32 then (decode (BitVec.ofNat 32 (w % 2 ^ nbits))).toOption else none

end Sys2Proof
end

