-- ==== Sys2Proof/Config.lean ====
section
/-! DEFINITION. The implementation parameters (`00_scope.md` R6 to R10) and the free contents of the
unwritten memories (`20_memory.md` R71). -/

namespace Sys2Proof

/-- The sixteen legal values of `PRIM_POLY`, as `00_scope.md` R6 lists them. -/
def legalPolynomials : List (BitVec 9) :=
  [0x11D, 0x12B, 0x12D, 0x14D, 0x15F, 0x163, 0x165, 0x169,
   0x171, 0x187, 0x18D, 0x1A9, 0x1C3, 0x1CF, 0x1E7, 0x1F5]

/-- The configuration record (`00_scope.md` R6 to R9). A value the spec refuses (`PRIM_POLY` not one of the
sixteen, `FCR` above 254, `NSYM_MAX` outside 1..254, `GRID_MAX` outside 1..255) has no term of this type
(`93_implementation_defined.md` I1 to I5). -/
structure Config where
  /-- `PRIM_POLY`, the field polynomial (R6). -/
  primPoly : BitVec 9 := 0x11D
  /-- `FCR`, the exponent of the first consecutive root (R7). -/
  fcr : Nat := 0
  /-- `NSYM_MAX`, the number of syndrome registers (R8). -/
  nsymMax : Nat := 254
  /-- `GRID_MAX`, the largest grid side stored (R9). -/
  gridMax : Nat := 255
  primPoly_legal : primPoly ∈ legalPolynomials := by decide
  fcr_le : fcr ≤ 254 := by decide
  nsymMax_pos : 1 ≤ nsymMax := by decide
  nsymMax_le : nsymMax ≤ 254 := by decide
  gridMax_pos : 1 ≤ gridMax := by decide
  gridMax_le : gridMax ≤ 255 := by decide
  deriving DecidableEq, Repr

/-- The defaults of R6 to R9, "the value this hardware takes when nothing else is said". -/
def Config.default : Config := {}

/-- `T_MAX`, the number of error-location and error-value registers (`00_scope.md` R8). -/
def Config.tMax (c : Config) : Nat := c.nsymMax / 2

/-- `N_MAX`, the number of codeword locations (`00_scope.md` R8). -/
def Config.nMax : Nat := 255

/-- A configuration from four numbers, `none` where the spec refuses one of them
(`93_implementation_defined.md` I2 to I5). -/
def Config.make (poly fcr nsymMax gridMax : Nat) : Option Config :=
  if h : (poly < 512 ∧ BitVec.ofNat 9 poly ∈ legalPolynomials) ∧ fcr ≤ 254 ∧ (1 ≤ nsymMax ∧ nsymMax ≤ 254) ∧
      (1 ≤ gridMax ∧ gridMax ≤ 255) then
    some { primPoly := BitVec.ofNat 9 poly, fcr := fcr, nsymMax := nsymMax, gridMax := gridMax,
           primPoly_legal := h.1.2, fcr_le := h.2.1, nsymMax_pos := h.2.2.1.1, nsymMax_le := h.2.2.1.2,
           gridMax_pos := h.2.2.2.1, gridMax_le := h.2.2.2.2 }
  else none

/-- FREE VALUE: what the memory location at a byte offset holds from a hardware reset until something writes
it (`20_memory.md` R71, `70_reset_and_hazards.md` R262: unspecified, stable). The first argument numbers the
hardware resets, so that each leaves contents of its own. No body: a claim holds for every contents. DESIGN
CHOICE of form, safe (log 5, log 6). -/
opaque Config.resetContents (reset : Nat) (offset : Nat) : Byte

end Sys2Proof
end

