-- ==== Sys2Proof/Machine/State.lean ====
section
/-! DEFINITION. Everything the spec gives the machine to hold (`10_state.md` R20), the host's input and the
port's answer, and the state after hardware reset (`70_reset_and_hazards.md` R260). -/

namespace Sys2Proof.Machine

/-- `STATUS.CODE`, the outcome of the most recent command (`60_exceptions.md` R231; values 7..15 never occur,
`93_implementation_defined.md` I18). -/
inductive Code where
  /-- 0: the command did what its rule says -/
  | ok
  /-- 1 `ERR_CMD`: the command word is illegal -/
  | errCmd
  /-- 2 `ERR_CFG`: an operand register is out of range -/
  | errCfg
  /-- 3 `ERR_SEQ`: a command out of sequence -/
  | errSeq
  /-- 4 `ERR_UNCORR`: the buffer cannot be corrected -/
  | errUncorr
  /-- 5 `ERR_UNDERRUN`: the path ended before the requested bits were found -/
  | errUnderrun
  /-- 6 `ERR_LEFTOVER`: a data-bearing cell remains -/
  | errLeftover
  deriving DecidableEq, Repr

/-- `STATUS.STAGE`, Reed-Solomon progress on the current `CW` (`10_state.md` R23; 6 and 7 never occur). -/
inductive Stage where
  | none | syn | kes | chn | fny | apl
  deriving DecidableEq, Repr

/-- `STATUS.FF_STATE`, the cursor's state (`10_state.md` R23; 3 never occurs). -/
inductive FfState where
  | idle | active | ended
  deriving DecidableEq, Repr

/-- The fields of `STATUS` (`10_state.md` R23). -/
structure Status where
  code : Code
  stage : Stage
  szero : Bool
  ffState : FfState
  deriving DecidableEq, Repr

/-- The fields of `FF_LAST` (`10_state.md` R36): the most recently yielded cell. -/
structure LastCell where
  x : Byte
  y : Byte
  valid : Bool
  deriving DecidableEq, Repr

/-- One move of the host: a read or a write transaction (`20_memory.md` R60), or a hardware reset between
transactions (`70_reset_and_hazards.md` R260, log 6). -/
inductive Request where
  /-- `MemRead(off, 4)` -/
  | read (off : Offset)
  /-- `MemWrite(off, 4, v)` -/
  | write (off : Offset) (v : Word)
  /-- `rst_n` asserted and released -/
  | hardReset
  deriving DecidableEq, Repr

/-- The port's answer to a transaction (`00_scope.md` R14, `60_exceptions.md` R233). -/
inductive Response where
  /-- the value of a read -/
  | value (v : Word)
  /-- a write that completed -/
  | completed
  /-- `BusError(off)`: the error response, with no state change -/
  | busError (off : Offset)
  deriving DecidableEq, Repr

/-- The memories `CW` and `CELL`: the bytes written since hardware reset, keyed by the byte offset of their
location (`43_system_commands.md` R213), offsets strictly rising. An unlisted location has no written value
(log 5). -/
abbrev Memory := List Host.Cell

/-- The machine. -/
structure State where
  /-- configuration record, constant (`00_scope.md` R6 to R9, log 4) -/
  cfg : Config
  /-- `STATUS` (R23) -/
  status : Status
  /-- `RS_N` (R28) -/
  rsN : Byte
  /-- `RS_NSYM` (R29) -/
  rsNsym : Byte
  /-- `RS_L` (R30) -/
  rsL : Byte
  /-- `RS_ERRCNT` (R31) -/
  rsErrcnt : Byte
  /-- `FF_SIZE` (R32) -/
  ffSize : Byte
  /-- `FF_IDX` (R33) -/
  ffIdx : BitVec 16
  /-- `FF_CNT` (R34) -/
  ffCnt : BitVec 16
  /-- `FF_DATA` (R35) -/
  ffData : Byte
  /-- `FF_LAST` (R36) -/
  ffLast : LastCell
  /-- `SYN[0..NSYM_MAX-1]` (R38) -/
  syn : List Byte
  /-- `LAMBDA[0..NSYM_MAX]` (R39) -/
  lambda : List Byte
  /-- `ERRLOC[0..T_MAX-1]` (R40) -/
  errloc : List Byte
  /-- `ERRVAL[0..T_MAX-1]` (R41) -/
  errval : List Byte
  /-- `CW` (R37) and `CELL` (R42) -/
  mem : Memory
  /-- the model's own: the host's moves not yet served, oldest first (log 1) -/
  requests : List Request
  /-- the model's own: the answer to the last transaction served (log 2) -/
  response : Option Response
  /-- the model's own: how many hardware resets have gone by since power-on (log 6) -/
  resets : Nat
  deriving DecidableEq, Repr

/-- Why a step stops with a fault. No constructor: every command terminates, every transaction is answered, a
status code is a result and a bus error leaves the block running (`60_exceptions.md` R241, log 3). -/
inductive Fault where
  deriving DecidableEq, Repr

/-- Why an instruction is refused. -/
inductive Refusal where
  /-- Raised by an arm of `exec` whose instruction has no meaning yet; no arm of this model does. Safe: nothing
  is claimed of such an instruction. -/
  | notModelled (mnemonic : String)
  deriving DecidableEq, Repr

/-- `STATUS` after reset, `0x000` (`70_reset_and_hazards.md` R260). -/
def Status.reset : Status := { code := .ok, stage := .none, szero := false, ffState := .idle }

/-- `FF_LAST` after reset, 0 (`70_reset_and_hazards.md` R260). -/
def LastCell.zero : LastCell := { x := 0, y := 0, valid := false }

/-- The block of configuration `c` right after hardware reset (`70_reset_and_hazards.md` R260), with no move of
the host pending. -/
def State.resetOf (c : Config) : State where
  cfg := c
  status := Status.reset
  rsN := 0
  rsNsym := 0
  rsL := 0
  rsErrcnt := 0
  ffSize := 0
  ffIdx := 0
  ffCnt := 0
  ffData := 0
  ffLast := LastCell.zero
  syn := List.replicate c.nsymMax 0
  lambda := List.replicate (c.nsymMax + 1) 0
  errloc := List.replicate c.tMax 0
  errval := List.replicate c.tMax 0
  mem := []
  requests := []
  response := none
  resets := 0

/-- The machine right after hardware reset, with the default parameters (`00_scope.md` R6 to R9). -/
def State.reset : State := State.resetOf Config.default

end Sys2Proof.Machine
end

