-- ==== Sys2Proof/Machine/Ops.lean ====
section
/-! DEFINITION. The named operations over memory and registers, the end of a command (`done`), the bus error,
and the two resets. -/

namespace Sys2Proof.Machine

/-- The written value of a location, `none` where nothing has written it since hardware reset: the ONE
definition of what an unlisted address reads as (log 5). -/
def Memory.read (m : Memory) (a : Nat) : Option Byte := (m.find? (fun cell => cell.1 == a)).map Prod.snd

/-- Store a byte, keeping the offsets strictly rising. -/
def Memory.write : Memory → Nat → Byte → Memory
  | [], a, v => [(a, v)]
  | (b, w) :: m, a, v =>
    if a < b then (a, v) :: (b, w) :: m
    else if a = b then (a, v) :: m
    else (b, w) :: Memory.write m a v

/-- The canonical form: offsets strictly rising. No entry can equal what an unlisted offset reads as, since
that is no value (log 5). -/
abbrev Memory.wf (m : Memory) : Prop := List.Pairwise (fun p q : Host.Cell => p.1 < q.1) m

/-- The byte a memory location holds: what was written, else the stable arbitrary reset contents
(`20_memory.md` R71). -/
def State.peek (s : State) (off : Nat) : Byte := (Memory.read s.mem off).getD (Config.resetContents s.resets off)

/-- Store a byte of memory. -/
def State.poke (s : State) (off : Nat) (v : Byte) : State := { s with mem := Memory.write s.mem off v }

/-- `off(CW[i])` (`43_system_commands.md` R213). -/
def cwOffset (i : Nat) : Nat := 0x400 + 4 * i

/-- `off(CELL[y][x])` (`43_system_commands.md` R213). -/
def cellOffset (y x : Nat) : Nat := 0x40000 + 4 * (256 * y + x)

/-- `CW[i]` (`10_state.md` R37). -/
def State.cw (s : State) (i : Nat) : Byte := s.peek (cwOffset i)

/-- `CW[i] <- v`. -/
def State.setCw (s : State) (i : Nat) (v : Byte) : State := s.poke (cwOffset i) v

/-- `CELL[y][x]`, two bits (`10_state.md` R42). -/
def State.cell (s : State) (y x : Nat) : BitVec 2 := (s.peek (cellOffset y x)).setWidth 2

/-- `CELL[y][x] <- v`, the upper six bits of the byte zero (log 13). -/
def State.setCell (s : State) (y x : Nat) (v : BitVec 2) : State := s.poke (cellOffset y x) (v.setWidth 8)

/-- `CELL[y][x].DARK`, bit 0 (`10_state.md` R42). -/
def State.dark (s : State) (y x : Nat) : Bool := (s.cell y x).getLsbD 0

/-- `CELL[y][x].FUNC`, bit 1 (`10_state.md` R42). -/
def State.func (s : State) (y x : Nat) : Bool := (s.cell y x).getLsbD 1

/-- `done(c)`: `STATUS.CODE <- c` and the command ends (`00_scope.md` R15). The block's counterpart of
exception entry; there is no return (`60_exceptions.md` R237, R238). -/
def State.done (s : State) (c : Code) : State := { s with status := { s.status with code := c } }

/-- The port answers a transaction (`20_memory.md` R60). -/
def State.respond (s : State) (r : Response) : State := { s with response := some r }

/-- `raise BusError(off)`: the error response and no change of the block's state (`60_exceptions.md` R233). -/
def State.busError (s : State) (off : Offset) : State := s.respond (.busError off)

/-- `SRST`'s effect but for its `done`: every register and register array at its reset value, the two memories
as they were (`43_system_commands.md` R211, `70_reset_and_hazards.md` R261). -/
def State.softReset (s : State) : State :=
  { State.resetOf s.cfg with mem := s.mem, requests := s.requests, response := s.response, resets := s.resets }

/-- Hardware reset between transactions (`70_reset_and_hazards.md` R260): the reset values, and both memories
unspecified anew (R262, log 6). The host's later moves stay pending. -/
def State.hardwareReset (s : State) : State :=
  { State.resetOf s.cfg with requests := s.requests, resets := s.resets + 1 }

end Sys2Proof.Machine
end

