-- ==== Sys2Proof/Machine/Flags.lean ====
section
/-! DEFINITION. The `STATUS` fields: their numbers (`10_state.md` R23, `00_scope.md` R17), the word the host
reads, their updates, and the two invalidation rules (R46, R47). -/

namespace Sys2Proof.Machine

/-- The number of a status code (`60_exceptions.md` R231). -/
def codeBits (c : Code) : BitVec 4 :=
  match c with
  | .ok => 0
  | .errCmd => 1
  | .errCfg => 2
  | .errSeq => 3
  | .errUncorr => 4
  | .errUnderrun => 5
  | .errLeftover => 6

/-- The number of a stage (`00_scope.md` R17). -/
def stageBits (st : Stage) : BitVec 3 :=
  match st with
  | .none => 0
  | .syn => 1
  | .kes => 2
  | .chn => 3
  | .fny => 4
  | .apl => 5

/-- The number of a cursor state (`00_scope.md` R17). -/
def ffStateBits (f : FfState) : BitVec 2 :=
  match f with
  | .idle => 0
  | .active => 1
  | .ended => 2

/-- `STATUS` as the host reads it: `CODE` 3:0, `STAGE` 6:4, `SZERO` 7, `FF_STATE` 9:8, the rest 0
(`10_state.md` R23). -/
def statusWord (st : Status) : Word :=
  (ffStateBits st.ffState).setWidth 32 <<< 8 ||| (BitVec.ofBool st.szero).setWidth 32 <<< 7 |||
    (stageBits st.stage).setWidth 32 <<< 4 ||| (codeBits st.code).setWidth 32

/-- `FF_LAST` as the host reads it: `X` 7:0, `Y` 15:8, `VALID` 16, the rest 0 (`10_state.md` R36). -/
def lastCellWord (l : LastCell) : Word :=
  (BitVec.ofBool l.valid).setWidth 32 <<< 16 ||| l.y.setWidth 32 <<< 8 ||| l.x.setWidth 32

/-- `STATUS.STAGE <- st`. -/
def State.setStage (s : State) (st : Stage) : State := { s with status := { s.status with stage := st } }

/-- `STATUS.SZERO <- z`. -/
def State.setSzero (s : State) (z : Bool) : State := { s with status := { s.status with szero := z } }

/-- `STATUS.FF_STATE <- f`. -/
def State.setFfState (s : State) (f : FfState) : State := { s with status := { s.status with ffState := f } }

/-- Reed-Solomon result invalidation (`10_state.md` R46): `STAGE <- NONE`, `SZERO <- 0`, nothing else. -/
def State.invalidateRs (s : State) : State := (s.setStage .none).setSzero false

/-- Cursor invalidation (`10_state.md` R47): `FF_STATE <- IDLE`, nothing else. -/
def State.invalidateFf (s : State) : State := s.setFfState .idle

/-- `SZERO` of a list of syndromes: every one of them is zero, true for none (`41_rs_commands.md` R143). -/
def allZero (bytes : List Byte) : Bool := bytes.all (fun b => b == 0)

end Sys2Proof.Machine
end

