-- ==== Sys2Proof/Machine/Operands.lean ====
section
/-! DEFINITION. The operand forms. Of commands: the fixed registers of `30_encoding.md` R96, with the two
configuration checks (`41_rs_commands.md` R141, `42_ff_commands.md` R185). Of the host's transactions: the one
addressing mode, an absolute byte offset (`43_system_commands.md` R213), as a location of the map of
`10_state.md` R20, with its access, the value a read returns and what a write stores. -/

namespace Sys2Proof.Machine

/-- `RS_N` as a number. -/
def State.n (s : State) : Nat := s.rsN.toNat

/-- `RS_NSYM` as a number. -/
def State.nsym (s : State) : Nat := s.rsNsym.toNat

/-- `t_of(RS_NSYM) = RS_NSYM div 2`, the capacity (`00_scope.md` R17). -/
def tOf (nsym : Nat) : Nat := nsym / 2

/-- `FF_SIZE` as a number. -/
def State.side (s : State) : Nat := s.ffSize.toNat

/-- The buffer in use, `CW[0..RS_N-1]` (`10_state.md` R28). -/
def State.buffer (s : State) : List Byte := (List.range s.n).map s.cw

/-- `CW[i], CW[i+1], ... <-` the bytes of a list, in ascending index. -/
def State.setBuffer (s : State) (i : Nat) : List Byte → State
  | [] => s
  | b :: bs => (s.setCw i b).setBuffer (i + 1) bs

/-- `SYN[j]`. -/
def State.synAt (s : State) (j : Nat) : Byte := s.syn.getD j 0

/-- `ERRLOC[k]` as a buffer index. -/
def State.errlocAt (s : State) (k : Nat) : Nat := (s.errloc.getD k 0).toNat

/-- `ERRVAL[k]`. -/
def State.errvalAt (s : State) (k : Nat) : Byte := s.errval.getD k 0

/-- `cfg_rs_ok` (`41_rs_commands.md` R141). -/
def State.cfgRsOk (s : State) : Bool :=
  decide (1 ≤ s.n) && decide (s.nsym ≤ s.n) && decide (s.nsym ≤ s.cfg.nsymMax)

/-- `ff_cfg_ok` (`42_ff_commands.md` R185). -/
def State.ffCfgOk (s : State) : Bool := decide (1 ≤ s.side) && decide (s.side ≤ s.cfg.gridMax)

/-- A location of the map (`10_state.md` R20). -/
inductive Loc where
  | id | cap0 | cap1 | cmd | status | rsN | rsNsym | rsL | rsErrcnt | ffSize | ffIdx | ffCnt | ffData | ffLast
  | cw (i : Nat)
  | syn (j : Nat)
  | lambda (i : Nat)
  | errloc (k : Nat)
  | errval (k : Nat)
  | cell (y x : Nat)
  deriving DecidableEq, Repr

/-- The scalar registers, `0x000` to `0x034` (`10_state.md` R20). -/
def scalarAt (off : Nat) : Option Loc :=
  match off with
  | 0x000 => some .id
  | 0x004 => some .cap0
  | 0x008 => some .cap1
  | 0x00C => some .cmd
  | 0x010 => some .status
  | 0x014 => some .rsN
  | 0x018 => some .rsNsym
  | 0x01C => some .rsL
  | 0x020 => some .rsErrcnt
  | 0x024 => some .ffSize
  | 0x028 => some .ffIdx
  | 0x02C => some .ffCnt
  | 0x030 => some .ffData
  | 0x034 => some .ffLast
  | _ => none

/-- Entry `i` of an array of `size` entries, `none` beyond it (`20_memory.md` R64). -/
def entryAt (make : Nat → Loc) (size i : Nat) : Option Loc := if i < size then some (make i) else none

/-- The cell with word index `k` from `0x40000`, rows 256 words apart, `none` outside the storage
(`20_memory.md` R64). -/
def cellAt (gridMax k : Nat) : Option Loc :=
  if k % 256 < gridMax ∧ k / 256 < gridMax then some (.cell (k / 256) (k % 256)) else none

/-- The location at an offset, `none` for a misaligned offset (`20_memory.md` R63) and for one that the map of
`10_state.md` R20 does not list (`20_memory.md` R64). -/
def locate (c : Config) (off : Offset) : Option Loc :=
  let a := off.toNat
  if a % 4 ≠ 0 then none
  else if a < 0x400 then scalarAt a
  else if a < 0x800 then entryAt .cw Config.nMax ((a - 0x400) / 4)
  else if a < 0xC00 then entryAt .syn c.nsymMax ((a - 0x800) / 4)
  else if a < 0x1000 then entryAt .lambda (c.nsymMax + 1) ((a - 0xC00) / 4)
  else if a < 0x1400 then entryAt .errloc c.tMax ((a - 0x1000) / 4)
  else if a < 0x1800 then entryAt .errval c.tMax ((a - 0x1400) / 4)
  else if a < 0x40000 then none
  else cellAt c.gridMax ((a - 0x40000) / 4)

/-- The offset of a location (`10_state.md` R20, `43_system_commands.md` R213). -/
def offsetOf (l : Loc) : Nat :=
  match l with
  | .id => 0x000
  | .cap0 => 0x004
  | .cap1 => 0x008
  | .cmd => 0x00C
  | .status => 0x010
  | .rsN => 0x014
  | .rsNsym => 0x018
  | .rsL => 0x01C
  | .rsErrcnt => 0x020
  | .ffSize => 0x024
  | .ffIdx => 0x028
  | .ffCnt => 0x02C
  | .ffData => 0x030
  | .ffLast => 0x034
  | .cw i => cwOffset i
  | .syn j => 0x800 + 4 * j
  | .lambda i => 0xC00 + 4 * i
  | .errloc k => 0x1000 + 4 * k
  | .errval k => 0x1400 + 4 * k
  | .cell y x => cellOffset y x

/-- A location that a `MemWrite` may address: `RW`, and `CMD` (`10_state.md` R20, `20_memory.md` R65). -/
def writable (l : Loc) : Bool :=
  match l with
  | .cmd => true
  | .rsN => true
  | .rsNsym => true
  | .ffSize => true
  | .cw _ => true
  | .cell _ _ => true
  | .id => false
  | .cap0 => false
  | .cap1 => false
  | .status => false
  | .rsL => false
  | .rsErrcnt => false
  | .ffIdx => false
  | .ffCnt => false
  | .ffData => false
  | .ffLast => false
  | .syn _ => false
  | .lambda _ => false
  | .errloc _ => false
  | .errval _ => false

/-- `CAP0`: `PRIM_POLY` 8:0, `FCR` 23:16, the rest 0 (`10_state.md` R25). -/
def cap0Word (c : Config) : Word :=
  (BitVec.ofNat 8 c.fcr).setWidth 32 <<< 16 ||| c.primPoly.setWidth 32

/-- `CAP1`: `NSYM_MAX` 7:0, `N_MAX` 15:8, `GRID_MAX` 23:16, the rest 0 (`10_state.md` R26). -/
def cap1Word (c : Config) : Word :=
  (BitVec.ofNat 8 c.gridMax).setWidth 32 <<< 16 ||| (BitVec.ofNat 8 Config.nMax).setWidth 32 <<< 8 |||
    (BitVec.ofNat 8 c.nsymMax).setWidth 32

/-- What a read of a location returns: its field, zero-extended (`20_memory.md` R66); `CMD` reads 0
(`10_state.md` R27). -/
def State.valueAt (s : State) (l : Loc) : Word :=
  match l with
  | .id => 0x52534646
  | .cap0 => cap0Word s.cfg
  | .cap1 => cap1Word s.cfg
  | .cmd => 0
  | .status => statusWord s.status
  | .rsN => s.rsN.setWidth 32
  | .rsNsym => s.rsNsym.setWidth 32
  | .rsL => s.rsL.setWidth 32
  | .rsErrcnt => s.rsErrcnt.setWidth 32
  | .ffSize => s.ffSize.setWidth 32
  | .ffIdx => s.ffIdx.setWidth 32
  | .ffCnt => s.ffCnt.setWidth 32
  | .ffData => s.ffData.setWidth 32
  | .ffLast => lastCellWord s.ffLast
  | .cw i => (s.cw i).setWidth 32
  | .syn j => (s.syn.getD j 0).setWidth 32
  | .lambda i => (s.lambda.getD i 0).setWidth 32
  | .errloc k => (s.errloc.getD k 0).setWidth 32
  | .errval k => (s.errval.getD k 0).setWidth 32
  | .cell y x => (s.cell y x).setWidth 32

/-- What a write of `v` stores in a read-write location: the field's bits (`20_memory.md` R66), with the side
effect of R69 (`10_state.md` R46 (a), R47 (a)). `CMD` stores nothing (`10_state.md` R27), and no write reaches
a read-only location (`20_memory.md` R65). -/
def State.storeAt (s : State) (l : Loc) (v : Word) : State :=
  match l with
  | .rsN => { s with rsN := v.setWidth 8 }.invalidateRs
  | .rsNsym => { s with rsNsym := v.setWidth 8 }.invalidateRs
  | .ffSize => { s with ffSize := v.setWidth 8 }.invalidateFf
  | .cw i => (s.setCw i (v.setWidth 8)).invalidateRs
  | .cell y x => (s.setCell y x (v.setWidth 2)).invalidateFf
  | .cmd => s
  | .id => s
  | .cap0 => s
  | .cap1 => s
  | .status => s
  | .rsL => s
  | .rsErrcnt => s
  | .ffIdx => s
  | .ffCnt => s
  | .ffData => s
  | .ffLast => s
  | .syn _ => s
  | .lambda _ => s
  | .errloc _ => s
  | .errval _ => s

end Sys2Proof.Machine
end

