-- ==== Sys2Proof/Machine/FrameFiller.lean ====
section
/-! DEFINITION. The frame filler commands (`42_ff_commands.md`): the path, the cursor, and the commands. -/

namespace Sys2Proof.Machine

/-- `IDX_END(s)`, the length of the path (`42_ff_commands.md` R181). -/
def idxEnd (side : Nat) : Nat := 2 * side * ((side + 1) / 2)

/-- `cell_of(idx, s)` as `(x, y)`; `x = -1` off the grid of an odd side (`42_ff_commands.md` R181, R182). -/
def cellOf (idx side : Nat) : Int × Nat :=
  let strip := idx / (2 * side)
  let k := idx % (2 * side) / 2
  let c := idx % 2
  let x : Int := (side : Int) - 1 - 2 * (strip : Int) - (c : Int)
  let y := if strip % 2 = 0 then side - 1 - k else k
  (x, y)

/-- The candidate at a path index is data-bearing: on the grid and not a function cell
(`42_ff_commands.md` R184). -/
def State.dataBearing (s : State) (idx : Nat) : Bool :=
  let cell := cellOf idx s.side
  decide (0 ≤ cell.1) && !s.func cell.2 cell.1.toNat

/-- The first data-bearing index at or after `idx`, or `idx + fuel` if the next `fuel` candidates have none: the
loop of `seek` (`42_ff_commands.md` R184). -/
def State.seekFrom (s : State) : Nat → Nat → Nat
  | 0, idx => idx
  | fuel + 1, idx => if s.dataBearing idx then idx else s.seekFrom fuel (idx + 1)

/-- `seek()`: move to the next data-bearing cell, consuming nothing; true for found, false for exhausted
(`42_ff_commands.md` R184). -/
def State.seek (s : State) : State × Bool :=
  let idx := s.seekFrom (idxEnd s.side - s.ffIdx.toNat) s.ffIdx.toNat
  ({ s with ffIdx := BitVec.ofNat 16 idx }, decide (idx < idxEnd s.side))

/-- `take()`: yield the `DARK` bit of the cell under the cursor and advance (`42_ff_commands.md` R184). -/
def State.takeBit (s : State) : Bool × State :=
  let cell := cellOf s.ffIdx.toNat s.side
  (s.dark cell.2 cell.1.toNat,
   { s with ffCnt := s.ffCnt + 1
            ffLast := { x := BitVec.ofNat 8 cell.1.toNat, y := BitVec.ofNat 8 cell.2, valid := true }
            ffIdx := s.ffIdx + 1 })

/-- `(temp << 1) OR bit`, on 8 bits: the first bit goes to the highest place (`42_ff_commands.md` R186). -/
def shiftIn (temp : Byte) (bit : Bool) : Byte := (temp <<< 1) ||| (BitVec.ofBool bit).setWidth 8

/-- "repeat `n` times: seek, take": the bits packed into `temp`, or `none` when the path ended first, with the
state either way (`42_ff_commands.md` R188, R190). -/
def State.takeBits (s : State) (temp : Byte) : Nat → State × Option Byte
  | 0 => (s, some temp)
  | k + 1 =>
    if s.seek.2 then s.seek.1.takeBit.2.takeBits (shiftIn temp s.seek.1.takeBit.1) k
    else (s.seek.1, none)

/-- `start_actions()` (`42_ff_commands.md` R185). -/
def State.startCursor (s : State) : State :=
  { s with ffIdx := 0, ffCnt := 0, ffData := 0, ffLast := LastCell.zero }.setFfState .active

/-- `FF_START` (`42_ff_commands.md` R185). -/
def execFfStart (s : State) : Host.Outcome State Fault Refusal :=
  .next (if s.ffCfgOk then s.startCursor.done .ok else s.done .errCfg)

/-- The end of `FF_GET` after its bits were sought (`42_ff_commands.md` R188). -/
def finishGet (r : State × Option Byte) : State :=
  match r.2 with
  | some temp => { r.1 with ffData := temp }.done .ok
  | none => (r.1.setFfState .ended).done .errUnderrun

/-- `FF_GET n` (`42_ff_commands.md` R188). A count outside 1..8 has no legal word; it is reported `ERR_CMD`
before anything else, as R188 says of its word (log 10). -/
def execFfGet (n : BitVec 8) (s : State) : Host.Outcome State Fault Refusal :=
  .next
    (if !legalCount n then s.done .errCmd
     else if s.status.ffState = .idle then s.done .errSeq
     else finishGet (s.takeBits 0 n.toNat))

/-- The codeword loop of `FF_FILL` from index `i`, `k` codewords to go: true when all were assembled, false when
the path ended first, the partial byte dropped (`42_ff_commands.md` R190). -/
def State.fillBytes (s : State) (i : Nat) : Nat → State × Bool
  | 0 => (s, true)
  | k + 1 =>
    match s.takeBits 0 8 with
    | (s', some b) => (s'.setCw i b).fillBytes (i + 1) k
    | (s', none) => (s', false)

/-- The end of `FF_FILL` after its codeword loop (`42_ff_commands.md` R190). -/
def finishFill (r : State × Bool) : State :=
  if r.2 then
    if r.1.seek.2 then r.1.seek.1.done .errLeftover
    else (r.1.seek.1.setFfState .ended).done .ok
  else (r.1.setFfState .ended).done .errUnderrun

/-- `FF_FILL` (`42_ff_commands.md` R190). -/
def execFfFill (s : State) : Host.Outcome State Fault Refusal :=
  .next
    (if s.ffCfgOk && s.rsN != 0 then finishFill (s.invalidateRs.startCursor.fillBytes 0 s.n)
     else s.done .errCfg)

end Sys2Proof.Machine
end

