-- ==== Sys2Proof/Machine/Gf256.lean ====
section
/-! DEFINITION. Arithmetic of GF(256) and of polynomials over it (`40_gf256.md`). The field polynomial is an
argument, so that the primitivity test of R116 is the same arithmetic. A polynomial is a list, lowest degree
first (R117). -/

namespace Sys2Proof.Machine

/-- `gf_add`, also subtraction (`40_gf256.md` R111). -/
def gfAdd (a b : Byte) : Byte := a ^^^ b

/-- The shift-and-add loop of `gf_mul` (`40_gf256.md` R112), `k` turns to go: `aa` has 9 bits. -/
def gfMulLoop (poly : BitVec 9) : Nat → BitVec 9 → Byte → Byte → Byte
  | 0, _, _, r => r
  | k + 1, aa, bb, r =>
    let r' := if bb.getLsbD 0 then r ^^^ aa.setWidth 8 else r
    let shifted := aa <<< 1
    let aa' := if shifted.getLsbD 8 then shifted ^^^ poly else shifted
    gfMulLoop poly k aa' (bb >>> 1) r'

/-- `gf_mul(a, b)` modulo the field polynomial (`40_gf256.md` R112). -/
def gfMul (poly : BitVec 9) (a b : Byte) : Byte := gfMulLoop poly 8 (a.setWidth 9) b 0

/-- `a^n` by `n` products: the repeated product of R113 and the power of R114. -/
def gfPow (poly : BitVec 9) (a : Byte) : Nat → Byte
  | 0 => 0x01
  | n + 1 => gfMul poly (gfPow poly a n) a

/-- The generator `alpha` (`00_scope.md` R10). -/
def alpha : Byte := 0x02

/-- `gf_exp(e) = alpha^(e mod 255)` for any integer `e` (`40_gf256.md` R113). -/
def gfExp (poly : BitVec 9) (e : Int) : Byte := gfPow poly alpha (e % 255).toNat

/-- `gf_inv(a) = a^254`, so `gf_inv(0) = 0` (`40_gf256.md` R114). -/
def gfInv (poly : BitVec 9) (a : Byte) : Byte := gfPow poly a 254

/-- `poly_eval(p, v)` by Horner's rule from the highest index down (`40_gf256.md` R118); the empty polynomial
gives 0 (`93_implementation_defined.md` I24). -/
def polyEval (poly : BitVec 9) (p : List Byte) (v : Byte) : Byte :=
  p.foldr (fun coeff acc => gfMul poly acc v ^^^ coeff) 0

/-- Keep the coefficients at odd places of the original polynomial: helper of `derivative`, the flag says
whether the next coefficient's index is odd. -/
def keepOdd : Bool → List Byte → List Byte
  | _, [] => []
  | odd, c :: cs => (if odd then c else 0) :: keepOdd (!odd) cs

/-- The formal derivative `dp[i-1] = p[i]` for odd `i`, 0 for even `i` (`40_gf256.md` R119). -/
def derivative (p : List Byte) : List Byte := keepOdd true p.tail

/-- The primitivity test of `40_gf256.md` R116: bit 8 set, 255 distinct powers of `0x02`, and back to 1. -/
def isPrimitive (poly : BitVec 9) : Bool :=
  poly.getLsbD 8 && decide ((List.range 255).map (gfPow poly alpha)).Nodup && gfPow poly alpha 255 == 0x01

end Sys2Proof.Machine
end

