-- ==== Sys2Proof/Machine/ReedSolomon.lean ====
section
/-! DEFINITION. The Reed-Solomon commands (`41_rs_commands.md`). A stage's pseudocode is a function `perform…`
that answers the new state and the code of its `done`; the stage command writes that code, and `RS_DEC`
chains the stages (R154). -/

namespace Sys2Proof.Machine

/-- `syn(w, j)`: the word, highest degree first (R140), evaluated at `alpha^(FCR+j)` (`41_rs_commands.md`
R142). -/
def syndrome (c : Config) (w : List Byte) (j : Nat) : Byte :=
  w.foldl (fun acc b => gfMul c.primPoly acc (gfExp c.primPoly (c.fcr + j)) ^^^ b) 0

/-- The syndromes `syn(w, 0), ..., syn(w, nsym-1)`. -/
def syndromes (c : Config) (w : List Byte) (nsym : Nat) : List Byte := (List.range nsym).map (syndrome c w)

/-- A word is a codeword when all its syndromes are zero (`41_rs_commands.md` R144). -/
def isCodeword (c : Config) (w : List Byte) (nsym : Nat) : Bool := allZero (syndromes c w nsym)

/-- End a command with the code its stage answered (`00_scope.md` R15). -/
def conclude (r : State × Code) : State := r.1.done r.2

/-- "if it did `done(c)` with `c != OK` then `done(c)`": go on only after `OK` (`41_rs_commands.md` R154). -/
def andThen (r : State × Code) (stage : State → State × Code) : State × Code :=
  if r.2 = .ok then stage r.1 else r

/-- `RS_SYN`'s pseudocode (`41_rs_commands.md` R143). -/
def performSyn (s : State) : State × Code :=
  if s.cfgRsOk then
    let found := syndromes s.cfg s.buffer s.nsym
    (({ s with syn := found ++ List.replicate (s.cfg.nsymMax - s.nsym) 0 }.setSzero (allZero found)).setStage .syn, .ok)
  else (s, .errCfg)

/-- The variables of the Berlekamp–Massey loop (`41_rs_commands.md` R145): `C`, `B`, `L`, `m`, `b`. -/
structure KeySolver where
  /-- `C`, the connection polynomial -/
  conn : List Byte
  /-- `B`, the previous connection polynomial -/
  prev : List Byte
  /-- `L`, the register length -/
  len : Nat
  /-- `m`, the turns since `B` was kept -/
  gap : Nat
  /-- `b`, the discrepancy when `B` was kept -/
  disc : Byte
  deriving DecidableEq, Repr

/-- The variables before the loop; `C` and `B` have `NSYM_MAX + 1` entries (`41_rs_commands.md` R145). -/
def keyStart (c : Config) : KeySolver :=
  { conn := 1 :: List.replicate c.nsymMax 0, prev := 1 :: List.replicate c.nsymMax 0, len := 0, gap := 1, disc := 0x01 }

/-- The discrepancy `d` of turn `n` (`41_rs_commands.md` R145). -/
def discrepancy (poly : BitVec 9) (syn : List Byte) (conn : List Byte) (len n : Nat) : Byte :=
  (List.range len).foldl (fun d i => d ^^^ gfMul poly (conn.getD (i + 1) 0) (syn.getD (n - (i + 1)) 0)) (syn.getD n 0)

/-- `C[i+m] <- C[i+m] XOR gf_mul(coef, B[i])` for every `i` with `i + m` inside the array
(`41_rs_commands.md` R145). -/
def shiftAdd (poly : BitVec 9) (conn : List Byte) (coef : Byte) (prev : List Byte) (gap : Nat) : List Byte :=
  List.zipWith (· ^^^ ·) conn (List.replicate gap 0 ++ prev.map (gfMul poly coef))

/-- One turn `n` of the loop (`41_rs_commands.md` R145). -/
def keyTurn (poly : BitVec 9) (syn : List Byte) (k : KeySolver) (n : Nat) : KeySolver :=
  let d := discrepancy poly syn k.conn k.len n
  if d = 0 then { k with gap := k.gap + 1 }
  else
    let conn' := shiftAdd poly k.conn (gfMul poly d (gfInv poly k.disc)) k.prev k.gap
    if 2 * k.len ≤ n then { conn := conn', prev := k.conn, len := n + 1 - k.len, gap := 1, disc := d }
    else { k with conn := conn', gap := k.gap + 1 }

/-- The loop of `RS_KES` over `RS_NSYM` syndromes (`41_rs_commands.md` R145). -/
def solveKey (c : Config) (syn : List Byte) (nsym : Nat) : KeySolver :=
  (List.range nsym).foldl (keyTurn c.primPoly syn) (keyStart c)

/-- `RS_KES`'s pseudocode (`41_rs_commands.md` R145). -/
def performKes (s : State) : State × Code :=
  if s.status.stage = .syn then
    let k := solveKey s.cfg s.syn s.nsym
    let s' := { s with lambda := k.conn, rsL := BitVec.ofNat 8 k.len }
    if tOf s.nsym < k.len then (s', .errUncorr) else (s'.setStage .kes, .ok)
  else (s, .errSeq)

/-- `p(i) = N - 1 - i`, the degree of buffer index `i` (`41_rs_commands.md` R140). -/
def degreeOf (n i : Nat) : Int := (n : Int) - 1 - (i : Int)

/-- Index `i` is a root position of the locator (`41_rs_commands.md` R147). -/
def isRootPosition (c : Config) (lambda : List Byte) (n i : Nat) : Bool :=
  polyEval c.primPoly lambda (gfExp c.primPoly (-(degreeOf n i))) == 0

/-- The root positions in ascending buffer index (`41_rs_commands.md` R148). -/
def rootPositions (c : Config) (lambda : List Byte) (n : Nat) : List Nat :=
  (List.range n).filter (isRootPosition c lambda n)

/-- The first `size` entries of a list, filled up with zeros. -/
def padded (size : Nat) (l : List Byte) : List Byte := l.take size ++ List.replicate (size - l.length) 0

/-- `RS_CHN`'s pseudocode (`41_rs_commands.md` R148). -/
def performChn (s : State) : State × Code :=
  if s.status.stage = .kes then
    let found := rootPositions s.cfg s.lambda s.n
    let s' := { s with errloc := padded s.cfg.tMax (found.map (BitVec.ofNat 8)), rsErrcnt := BitVec.ofNat 8 found.length }
    if found.length ≠ s.rsL.toNat then (s', .errUncorr) else (s'.setStage .chn, .ok)
  else (s, .errSeq)

/-- `OMEGA[k] = XOR over i in 0..k of SYN[i] * LAMBDA[k-i]`, for `k < nsym` (`41_rs_commands.md` R150). -/
def evaluator (c : Config) (syn lambda : List Byte) (nsym : Nat) : List Byte :=
  (List.range nsym).map fun k =>
    (List.range (k + 1)).foldl (fun acc i => acc ^^^ gfMul c.primPoly (syn.getD i 0) (lambda.getD (k - i) 0)) 0

/-- The error value at a position of degree `p`, Forney's formula (`41_rs_commands.md` R150). -/
def errorValue (c : Config) (omega lambda : List Byte) (p : Int) : Byte :=
  let v := gfExp c.primPoly (-p)
  let num := polyEval c.primPoly omega v
  let den := polyEval c.primPoly (derivative lambda) v
  gfMul c.primPoly (gfExp c.primPoly (p * (1 - (c.fcr : Int)))) (gfMul c.primPoly num (gfInv c.primPoly den))

/-- `RS_FNY`'s pseudocode (`41_rs_commands.md` R150). -/
def performFny (s : State) : State × Code :=
  if s.status.stage = .chn then
    let omega := evaluator s.cfg s.syn s.lambda s.nsym
    let value := fun q =>
      if q < s.rsErrcnt.toNat then errorValue s.cfg omega s.lambda (degreeOf s.n (s.errlocAt q)) else 0
    ({ s with errval := (List.range s.cfg.tMax).map value }.setStage .fny, .ok)
  else (s, .errSeq)

/-- `cand`: the buffer with every error value added at its position, in order (`41_rs_commands.md` R152). -/
def State.candidate (s : State) : List Byte :=
  (List.range s.rsErrcnt.toNat).foldl (fun w q => w.modify (s.errlocAt q) (· ^^^ s.errvalAt q)) s.buffer

/-- `RS_APL`'s pseudocode (`41_rs_commands.md` R152). -/
def performApl (s : State) : State × Code :=
  if s.status.stage = .fny then
    if isCodeword s.cfg s.candidate s.nsym then ((s.setBuffer 0 s.candidate).setStage .apl, .ok)
    else (s, .errUncorr)
  else (s, .errSeq)

/-- `RS_DEC`'s pseudocode (`41_rs_commands.md` R154). -/
def performDec (s : State) : State × Code :=
  andThen (andThen (andThen (andThen (performSyn s) performKes) performChn) performFny) performApl

/-- `RS_SYN` (`41_rs_commands.md` R143). -/
def execRsSyn (s : State) : Host.Outcome State Fault Refusal := .next (conclude (performSyn s))

/-- `RS_KES` (`41_rs_commands.md` R145). -/
def execRsKes (s : State) : Host.Outcome State Fault Refusal := .next (conclude (performKes s))

/-- `RS_CHN` (`41_rs_commands.md` R148). -/
def execRsChn (s : State) : Host.Outcome State Fault Refusal := .next (conclude (performChn s))

/-- `RS_FNY` (`41_rs_commands.md` R150). -/
def execRsFny (s : State) : Host.Outcome State Fault Refusal := .next (conclude (performFny s))

/-- `RS_APL` (`41_rs_commands.md` R152). -/
def execRsApl (s : State) : Host.Outcome State Fault Refusal := .next (conclude (performApl s))

/-- `RS_DEC` (`41_rs_commands.md` R154). -/
def execRsDec (s : State) : Host.Outcome State Fault Refusal := .next (conclude (performDec s))

end Sys2Proof.Machine
end

