-- ==== Sys2Proof/Machine/System.lean ====
section
/-! DEFINITION. The system commands (`43_system_commands.md`). -/

namespace Sys2Proof.Machine

/-- `NOP` (`43_system_commands.md` R210). -/
def execNop (s : State) : Host.Outcome State Fault Refusal := .next (s.done .ok)

/-- `SRST` (`43_system_commands.md` R211). -/
def execSrst (s : State) : Host.Outcome State Fault Refusal := .next (s.softReset.done .ok)

end Sys2Proof.Machine
end

