-- ==== Sys2Proof/Machine/Dispatch.lean ====
section
/-! DEFINITION. The meaning of each command, one arm per constructor. -/

namespace Sys2Proof.Machine

def exec (i : Instr) (s : State) : Host.Outcome State Fault Refusal :=
  match i with
  | .nop => Sys2Proof.Machine.execNop s
  | .srst => Sys2Proof.Machine.execSrst s
  | .rsSyn => Sys2Proof.Machine.execRsSyn s
  | .rsKes => Sys2Proof.Machine.execRsKes s
  | .rsChn => Sys2Proof.Machine.execRsChn s
  | .rsFny => Sys2Proof.Machine.execRsFny s
  | .rsApl => Sys2Proof.Machine.execRsApl s
  | .rsDec => Sys2Proof.Machine.execRsDec s
  | .ffStart => Sys2Proof.Machine.execFfStart s
  | .ffGet n => Sys2Proof.Machine.execFfGet n s
  | .ffFill => Sys2Proof.Machine.execFfFill s

end Sys2Proof.Machine
end

