-- ==== Sys2Proof/Machine/Port.lean ====
section
/-! DEFINITION. The slave port: what one move of the host does (`20_memory.md`, `43_system_commands.md` R213). -/

namespace Sys2Proof.Machine

/-- `MemRead(off, 4)` (`43_system_commands.md` R213): the field zero-extended, or a bus error; no state but the
answer changes (`20_memory.md` R68). -/
def busRead (off : Offset) (s : State) : State :=
  match locate s.cfg off with
  | some l => s.respond (.value (s.valueAt l))
  | none => s.busError off

/-- "execute decode(v)": run the command of a legal word; an illegal word does `done(ERR_CMD)` and nothing else
(`30_encoding.md` R94, R95). -/
def issue (v : Word) (s : State) : Host.Outcome State Fault Refusal :=
  match decode v with
  | .ok i => exec i s
  | .error _ => .next (s.done .errCmd)

/-- `MemWrite(off, 4, v)` (`43_system_commands.md` R213). A write to `CMD` completes when its command has ended
(`20_memory.md` R74). -/
def busWrite (off : Offset) (v : Word) (s : State) : Host.Outcome State Fault Refusal :=
  match locate s.cfg off with
  | some l =>
    if l = .cmd then issue v (s.respond .completed)
    else if writable l then .next ((s.storeAt l v).respond .completed)
    else .next (s.busError off)
  | none => .next (s.busError off)

/-- One move of the host, from the state in which it is no longer pending. -/
def serve (q : Request) (s : State) : Host.Outcome State Fault Refusal :=
  match q with
  | .read off => .next (busRead off s)
  | .write off v => busWrite off v s
  | .hardReset => .next s.hardwareReset

/-- `CMD`'s offset (`10_state.md` R27). -/
def cmdOffset : Offset := 0x00C

end Sys2Proof.Machine
end

