-- ==== Sys2Proof/Machine/Step.lean ====
section
/-! DEFINITION. One step of the machine: the oldest pending move of the host (`20_memory.md` R72, log 1). -/

namespace Sys2Proof.Machine

/-- Serve the oldest pending move of the host; with none pending the block waits, unchanged
(`70_reset_and_hazards.md` R260, log 1). -/
def step (s : State) : Host.Outcome State Fault Refusal :=
  match s.requests with
  | [] => .next s
  | q :: rest => serve q { s with requests := rest }

/-- The same machine whose next move is the write of a command word to `CMD`: a command is issued, not fetched
(`10_state.md` R22, `30_encoding.md` R90, log 1). The word's bits above `nbits` are 0. -/
def State.withFetchWord (s : State) (nbits w : Nat) : State :=
  { s with requests := .write cmdOffset (BitVec.ofNat 32 (w % 2 ^ nbits)) :: s.requests }

end Sys2Proof.Machine
end

