-- ==== Sys2Proof/Machine/Script.lean ====
section
/-! DEFINITION. Host scripts (`30_encoding.md` R97) and the pseudo-commands (R98), as the moves they stand for. -/

namespace Sys2Proof.Machine

/-- `RD <location>` (`30_encoding.md` R97). -/
def scriptRead (l : Loc) : Request := .read (BitVec.ofNat 19 (offsetOf l))

/-- `WR <location>, <value>` (`30_encoding.md` R97). -/
def scriptWrite (l : Loc) (v : Word) : Request := .write (BitVec.ofNat 19 (offsetOf l)) v

/-- `CMD <mnemonic> [n]` (`30_encoding.md` R97). -/
def scriptCmd (i : Instr) : Request := .write cmdOffset (encode i)

/-- `LOADCW` from index `i` on (`30_encoding.md` R98). -/
def loadCwFrom (i : Nat) : List Byte → List Request
  | [] => []
  | b :: bs => scriptWrite (.cw i) (b.setWidth 32) :: loadCwFrom (i + 1) bs

/-- `LOADCW b0 b1 ... b(n-1)` (`30_encoding.md` R98). -/
def loadCw (bytes : List Byte) : List Request := loadCwFrom 0 bytes

/-- `LOADGRID s, D, F`, the two matrices as functions of row and column (`30_encoding.md` R98). -/
def loadGrid (side : Nat) (d f : Nat → Nat → Bool) : List Request :=
  scriptWrite .ffSize (BitVec.ofNat 32 side) ::
    (List.range side).flatMap fun y => (List.range side).map fun x =>
      scriptWrite (.cell y x) (BitVec.ofNat 32 ((d y x).toNat + 2 * (f y x).toNat))

/-- `DECODE n, k` (`30_encoding.md` R98). -/
def decodeScript (n k : Nat) : List Request :=
  [scriptWrite .rsN (BitVec.ofNat 32 n), scriptWrite .rsNsym (BitVec.ofNat 32 k), scriptCmd .rsDec, scriptRead .status]

/-- `EXPECT <location> = <value>` issues one read (`30_encoding.md` R98). -/
def expectRead (l : Loc) : Request := scriptRead l

/-- The state with a script of the host's moves pending after those it already has. -/
def State.withScript (s : State) (moves : List Request) : State := { s with requests := s.requests ++ moves }

end Sys2Proof.Machine
end

