-- ==== Sys2Proof/Safety.lean ====
section
/-! DEFINITION. The terms claims use: what a step leaves as it was, what a correct host has done
(`20_memory.md` R79), and the three invariants of the block (shape, pipeline, cursor). -/

namespace Sys2Proof.Machine

/-- Every byte of memory reads as before. -/
def keepsMemory (s t : State) : Prop := ∀ a : Nat, t.peek a = s.peek a

/-- Configuration, pending moves, port answer and reset count are as before. -/
def keepsPort (s t : State) : Prop :=
  t.cfg = s.cfg ∧ t.requests = s.requests ∧ t.response = s.response ∧ t.resets = s.resets

/-- The operand registers `RS_N`, `RS_NSYM`, `FF_SIZE` are as before. -/
def keepsOperands (s t : State) : Prop := t.rsN = s.rsN ∧ t.rsNsym = s.rsNsym ∧ t.ffSize = s.ffSize

/-- The Reed-Solomon result registers `SYN`, `LAMBDA`, `RS_L`, `ERRLOC`, `RS_ERRCNT`, `ERRVAL` are as before. -/
def keepsRsResults (s t : State) : Prop :=
  t.syn = s.syn ∧ t.lambda = s.lambda ∧ t.rsL = s.rsL ∧ t.errloc = s.errloc ∧ t.rsErrcnt = s.rsErrcnt ∧
    t.errval = s.errval

/-- The filler's registers `FF_IDX`, `FF_CNT`, `FF_DATA`, `FF_LAST` and `FF_STATE` are as before. -/
def keepsCursor (s t : State) : Prop :=
  t.ffIdx = s.ffIdx ∧ t.ffCnt = s.ffCnt ∧ t.ffData = s.ffData ∧ t.ffLast = s.ffLast ∧
    t.status.ffState = s.status.ffState

/-- The last transaction ended in a bus error: the host's fault (`60_exceptions.md` R241). -/
def busErrored (s : State) : Bool :=
  match s.response with
  | some (.busError _) => true
  | some (.value _) => false
  | some .completed => false
  | none => false

/-- Host duty: every `CW[i]`, `i < RS_N`, written since hardware reset (`20_memory.md` R79). -/
def bufferWritten (s : State) : Bool :=
  (List.range s.n).all fun i => (Memory.read s.mem (cwOffset i)).isSome

/-- Host duty: every cell of the `FF_SIZE` square written since hardware reset (`20_memory.md` R79). -/
def gridWritten (s : State) : Bool :=
  (List.range s.side).all fun y => (List.range s.side).all fun x => (Memory.read s.mem (cellOffset y x)).isSome

/-- A listed byte is a `CW` location, or a `CELL` location of the storage with two bits. -/
def memoryCell (c : Config) (p : Host.Cell) : Prop :=
  (∃ i, i < Config.nMax ∧ p.1 = cwOffset i) ∨
    (∃ y x, y < c.gridMax ∧ x < c.gridMax ∧ p.1 = cellOffset y x ∧ p.2.toNat < 4)

/-- The arrays have the sizes of `10_state.md` R38 to R41 and the memory its canonical form. -/
structure ShapeOk (s : State) : Prop where
  syn_length : s.syn.length = s.cfg.nsymMax
  lambda_length : s.lambda.length = s.cfg.nsymMax + 1
  errloc_length : s.errloc.length = s.cfg.tMax
  errval_length : s.errval.length = s.cfg.tMax
  mem_wf : Memory.wf s.mem
  mem_cells : ∀ p ∈ s.mem, memoryCell s.cfg p

/-- The stages from which the locator describes the buffer (`70_reset_and_hazards.md` R268). -/
def locatorStage (st : Stage) : Bool := st == .kes || st == .chn || st == .fny || st == .apl

/-- The stages from which the located positions describe the buffer (`70_reset_and_hazards.md` R268). -/
def positionStage (st : Stage) : Bool := st == .chn || st == .fny || st == .apl

/-- The stages from which the error values describe the buffer (`70_reset_and_hazards.md` R268). -/
def valueStage (st : Stage) : Bool := st == .fny || st == .apl

/-- What each `STAGE` promises of the result registers (`70_reset_and_hazards.md` R268, `10_state.md` R46). -/
structure PipelineOk (s : State) : Prop where
  /-- `SZERO` is 0 while no syndromes are valid -/
  szero_none : s.status.stage = .none → s.status.szero = false
  /-- the configuration check has passed -/
  config : s.status.stage ≠ .none → s.cfgRsOk = true
  /-- `SYN` holds the syndromes of the current buffer, until the correction is committed -/
  syn_current : s.status.stage ≠ .none → s.status.stage ≠ .apl →
    ∀ j, j < s.nsym → s.synAt j = syndrome s.cfg s.buffer j
  /-- `SYN[j] = 0` beyond `RS_NSYM` -/
  syn_tail : s.status.stage ≠ .none → ∀ j, s.nsym ≤ j → s.synAt j = 0
  /-- `SZERO` says that every syndrome found is zero -/
  szero_iff : s.status.stage ≠ .none → (s.status.szero = true ↔ ∀ j, j < s.nsym → s.synAt j = 0)
  /-- `LAMBDA` and `RS_L` solve the key equation of `SYN`, within capacity -/
  locator : locatorStage s.status.stage = true →
    s.lambda = (solveKey s.cfg s.syn s.nsym).conn ∧ s.rsL.toNat = (solveKey s.cfg s.syn s.nsym).len ∧
      s.rsL.toNat ≤ tOf s.nsym
  /-- `ERRLOC` and `RS_ERRCNT` are the root positions of `LAMBDA`, `RS_L` of them -/
  positions : positionStage s.status.stage = true →
    s.rsErrcnt = s.rsL ∧ (rootPositions s.cfg s.lambda s.n).length = s.rsErrcnt.toNat ∧
      ∀ k, k < s.rsErrcnt.toNat → s.errlocAt k = (rootPositions s.cfg s.lambda s.n).getD k 0
  /-- `ERRVAL` holds Forney's values -/
  values : valueStage s.status.stage = true →
    ∀ k, k < s.rsErrcnt.toNat →
      s.errvalAt k = errorValue s.cfg (evaluator s.cfg s.syn s.lambda s.nsym) s.lambda (degreeOf s.n (s.errlocAt k))
  /-- the corrected buffer is a codeword -/
  codeword : s.status.stage = .apl → isCodeword s.cfg s.buffer s.nsym = true

/-- The data-bearing candidates before path index `idx`. -/
def State.dataBefore (s : State) (idx : Nat) : Nat := (List.range idx).countP s.dataBearing

/-- What `FF_STATE` promises of the cursor (`10_state.md` R33, R34, R36, `70_reset_and_hazards.md` R268). -/
structure CursorOk (s : State) : Prop where
  /-- a cursor stands on a legal grid -/
  config : s.status.ffState ≠ .idle → s.ffCfgOk = true
  /-- `FF_IDX` is in `0..IDX_END(FF_SIZE)` -/
  idx_le : s.status.ffState ≠ .idle → s.ffIdx.toNat ≤ idxEnd s.side
  /-- `FF_CNT` counts the data-bearing cells passed -/
  cnt : s.status.ffState ≠ .idle → s.ffCnt.toNat = s.dataBefore s.ffIdx.toNat
  /-- `VALID` says that a bit has been yielded -/
  valid : s.status.ffState ≠ .idle → (s.ffLast.valid = true ↔ 0 < s.ffCnt.toNat)
  /-- in `END` the cursor is at the end of the path -/
  ended : s.status.ffState = .ended → s.ffIdx.toNat = idxEnd s.side

end Sys2Proof.Machine
end

