-- ==== Sys2Proof/Certificates/Slice0/Obligations.lean ====
section
/-! DEFINITION. The statements for the provers. Each docstring names the rule of `spec/` it comes from. -/

open Sys2Proof Sys2Proof.Machine

namespace Sys2Proof.Claims

/-- The 18 legal words of `30_encoding.md` R93 with the commands they stand for. -/
def commandTable : List (Word × Instr) :=
  [(0x00000000, .nop), (0x00000001, .srst), (0x00000010, .rsSyn), (0x00000011, .rsKes), (0x00000012, .rsChn),
   (0x00000013, .rsFny), (0x00000014, .rsApl), (0x0000001F, .rsDec), (0x00000020, .ffStart),
   (0x00000121, .ffGet 1), (0x00000221, .ffGet 2), (0x00000321, .ffGet 3), (0x00000421, .ffGet 4),
   (0x00000521, .ffGet 5), (0x00000621, .ffGet 6), (0x00000721, .ffGet 7), (0x00000821, .ffGet 8),
   (0x0000002F, .ffFill)]

/-- The offsets of the table of `10_state.md` R20. -/
def listedOffset (c : Config) (a : Nat) : Prop :=
  (∃ k, k < 14 ∧ a = 4 * k) ∨ (∃ i, i < 255 ∧ a = 0x400 + 4 * i) ∨ (∃ j, j < c.nsymMax ∧ a = 0x800 + 4 * j) ∨
  (∃ i, i < c.nsymMax + 1 ∧ a = 0xC00 + 4 * i) ∨ (∃ k, k < c.nsymMax / 2 ∧ a = 0x1000 + 4 * k) ∨
  (∃ k, k < c.nsymMax / 2 ∧ a = 0x1400 + 4 * k) ∨
  (∃ y x, y < c.gridMax ∧ x < c.gridMax ∧ a = 0x40000 + 4 * (256 * y + x))

/-- The read-only offsets of `20_memory.md` R65. -/
def readOnlyOffset (c : Config) (a : Nat) : Prop :=
  a ∈ [0x000, 0x004, 0x008, 0x010, 0x01C, 0x020, 0x028, 0x02C, 0x030, 0x034] ∨
  (∃ j, j < c.nsymMax ∧ a = 0x800 + 4 * j) ∨ (∃ i, i < c.nsymMax + 1 ∧ a = 0xC00 + 4 * i) ∨
  (∃ k, k < c.nsymMax / 2 ∧ a = 0x1000 + 4 * k) ∨ (∃ k, k < c.nsymMax / 2 ∧ a = 0x1400 + 4 * k)

/-- The read-write offsets whose write invalidates the Reed-Solomon results (`10_state.md` R46 (a)). -/
def rsWriteOffset (a : Nat) : Prop := a = 0x014 ∨ a = 0x018 ∨ ∃ i, i < 255 ∧ a = 0x400 + 4 * i

/-- The read-write offsets whose write invalidates the cursor (`10_state.md` R47 (a)). -/
def ffWriteOffset (c : Config) (a : Nat) : Prop :=
  a = 0x024 ∨ ∃ y x, y < c.gridMax ∧ x < c.gridMax ∧ a = 0x40000 + 4 * (256 * y + x)

/-- What a host read of an offset answers. -/
def readOf (s : State) (off : Nat) : Option Response := (busRead (BitVec.ofNat 19 off) s).response

/-- A read that returns the number `v`. -/
def readsNat (s : State) (off v : Nat) : Prop := readOf s off = some (.value (BitVec.ofNat 32 v))

/-- The read that returns a field of `k` bits, zero-extended. -/
def readsField {k : Nat} (s : State) (off : Nat) (field : BitVec k) : Prop :=
  readOf s off = some (.value (field.setWidth 32))

/-- Nothing but `CODE` changes: the effect of a precondition failure (`60_exceptions.md` R235). -/
def onlyCode (s : State) (c : Code) : State := { s with status := { s.status with code := c } }

/-- The sum (exclusive-or) of `f 0, ..., f (k-1)`. -/
def xorSum (k : Nat) (f : Nat → Byte) : Byte := (List.range k).foldl (fun acc i => acc ^^^ f i) 0

/-- The carry-less product of two numbers read as polynomials over GF(2), the second of at most `k` bits. -/
def clmul (a b : Nat) : Nat → Nat
  | 0 => 0
  | k + 1 => clmul a b k ^^^ (if b.testBit k then a <<< k else 0)

/-- Issue commands one by one up to and including the first that does not end `OK`. -/
def untilFailure : List Instr → State → Host.Outcome State Fault Refusal
  | [], s => .next s
  | i :: is, s =>
    match exec i s with
    | .next t => if t.status.code = .ok ∧ is ≠ [] then untilFailure is t else .next t
    | .fault e => .fault e
    | .refused e => .refused e

/-- Issue one command `k` times. -/
def issueTimes (i : Instr) : Nat → State → Host.Outcome State Fault Refusal
  | 0, s => .next s
  | k + 1, s =>
    match exec i s with
    | .next t => issueTimes i k t
    | .fault e => .fault e
    | .refused e => .refused e

/-- The configuration check of `41_rs_commands.md` R141. -/
def rsConfig (s : State) : Prop := 1 ≤ s.n ∧ s.nsym ≤ s.n ∧ s.nsym ≤ s.cfg.nsymMax

/-- The configuration check of `42_ff_commands.md` R185. -/
def ffConfig (s : State) : Prop := 1 ≤ s.side ∧ s.side ≤ s.cfg.gridMax

/-- The Reed-Solomon commands. -/
def isRs (i : Instr) : Prop :=
  i = .rsSyn ∨ i = .rsKes ∨ i = .rsChn ∨ i = .rsFny ∨ i = .rsApl ∨ i = .rsDec

/-- The value at buffer index `i` of the locator at the inverse of its position (`41_rs_commands.md` R147). -/
def locatorAt (s : State) (i : Nat) : Byte :=
  polyEval s.cfg.primPoly s.lambda (gfExp s.cfg.primPoly (-((s.n : Int) - 1 - i)))

/-- The path indices of the data-bearing cells from index `idx` on, in path order. -/
def dataFrom (s : State) (idx : Nat) : List Nat :=
  (List.range (idxEnd s.side)).filter fun k => decide (idx ≤ k) && s.dataBearing k

/-- The `DARK` bit of the candidate at a path index. -/
def darkAt (s : State) (idx : Nat) : Bool := s.dark (cellOf idx s.side).2 (cellOf idx s.side).1.toNat

/-- `FF_LAST` after the candidate at a path index was taken. -/
def lastAt (s : State) (idx : Nat) : LastCell :=
  { x := BitVec.ofNat 8 (cellOf idx s.side).1.toNat, y := BitVec.ofNat 8 (cellOf idx s.side).2, valid := true }

/-- The number of data-bearing cells of the `FF_SIZE` square, counted row by row (`00_scope.md` R17). -/
def dataCells (s : State) : Nat :=
  ((List.range s.side).map fun y => (List.range s.side).countP fun x => !s.func y x).sum

/-- A move of the host that is not a write to `CMD` and no hardware reset. -/
def plainMove (q : Request) : Prop := q ≠ .hardReset ∧ ∀ w, q ≠ .write 0x00C w

end Sys2Proof.Claims

open Sys2Proof.Claims

/-! ### Encoding -/

/-- `30_encoding.md` R94: every 32-bit word is one of the 18 legal words, and then the command of R93's row, or
illegal. -/
def Obligations.EveryWordDecodesAsTheCommandTable : Prop :=
  ∀ w : Word, (decode w).toOption = (commandTable.find? fun row => row.1 == w).map Prod.snd

/-- Decoding and encoding agree in both directions (from `30_encoding.md` R91, R93, R94): a word decodes to a
command exactly when the command is well-formed and the word is its encoding. -/
def Obligations.DecodeExactlyInvertsEncode : Prop :=
  ∀ (w : Word) (i : Instr), decode w = .ok i ↔ (i.wellFormed = true ∧ encode i = w)

/-- Some words of `30_encoding.md` R93, one of each family, and two illegal ones of `95_test_vectors.md` E1. -/
def Obligations.SpecWordsDecodeToTheirCommands : Prop :=
  decode 0x00000001 = .ok .srst ∧ decode 0x00000011 = .ok .rsKes ∧ decode 0x0000001F = .ok .rsDec ∧
    decode 0x00000321 = .ok (.ffGet 3) ∧ decode 0x0000002F = .ok .ffFill ∧
    decode 0x00000921 = .error .badCount ∧ decode 0x80000010 = .error .reservedNonzero

/-- A write of a legal word to `CMD` runs its command on the state from which the move is taken and in which the
port answers `completed` (`30_encoding.md` R90; the queue of moves is the model's, log 1, log 2). -/
def Obligations.StepRunsTheDecodedCommand : Prop :=
  ∀ (s : State) (rest : List Request) (w : Word) (i : Instr),
    s.requests = .write 0x00C w :: rest → decode w = .ok i →
    step s = exec i { s with requests := rest, response := some .completed }

/-- `30_encoding.md` R95: an illegal word does `done(ERR_CMD)` and changes nothing else. -/
def Obligations.IllegalWordOnlySetsErrCmd : Prop :=
  ∀ (s : State) (rest : List Request) (w : Word),
    s.requests = .write 0x00C w :: rest → w ∉ commandTable.map Prod.fst →
    step s = .next (onlyCode { s with requests := rest, response := some .completed } .errCmd)

/-- A command placed as the next move is the next thing the machine runs (log 1). -/
def Obligations.PlacedWordRunsNext : Prop :=
  ∀ (s : State) (i : Instr), i.wellFormed = true →
    step (s.withFetchWord 32 (encode i).toNat) = exec i { s with response := some .completed }

/-! ### System commands and reset -/

/-- `43_system_commands.md` R210. -/
def Obligations.NopOnlySetsCodeOk : Prop :=
  decode 0x00000000 = .ok .nop ∧ ∀ s : State, exec .nop s = .next (onlyCode s .ok)

/-- `43_system_commands.md` R211: every register and register array at its reset value, both memories kept. -/
def Obligations.SrstResetsRegistersAndKeepsMemories : Prop :=
  decode 0x00000001 = .ok .srst ∧ ∀ s : State, ∃ t, exec .srst s = .next t ∧
    t.status = { code := .ok, stage := .none, szero := false, ffState := .idle } ∧
    t.rsN = 0 ∧ t.rsNsym = 0 ∧ t.rsL = 0 ∧ t.rsErrcnt = 0 ∧
    t.ffSize = 0 ∧ t.ffIdx = 0 ∧ t.ffCnt = 0 ∧ t.ffData = 0 ∧ lastCellWord t.ffLast = 0 ∧
    t.syn = List.replicate s.cfg.nsymMax 0 ∧ t.lambda = List.replicate (s.cfg.nsymMax + 1) 0 ∧
    t.errloc = List.replicate (s.cfg.nsymMax / 2) 0 ∧ t.errval = List.replicate (s.cfg.nsymMax / 2) 0 ∧
    keepsMemory s t ∧ keepsPort s t

/-- Hardware reset between transactions (`70_reset_and_hazards.md` section 1): the reset values, and both
memories with contents of their own that nothing constrains (log 6). -/
def Obligations.HardwareResetLeavesResetValuesAndFreeMemories : Prop :=
  ∀ (s : State) (rest : List Request), s.requests = .hardReset :: rest →
    ∃ t, step s = .next t ∧ t = { State.resetOf s.cfg with requests := rest, resets := s.resets + 1 } ∧
      ∀ a, t.peek a = Config.resetContents (s.resets + 1) a

/-- The state after hardware reset with the default parameters, read through the port
(`70_reset_and_hazards.md` section 1); the contents of the memories stay free (log 5). -/
def Obligations.ResetStateReadsItsResetValues : Prop :=
  readsNat State.reset 0x000 0x52534646 ∧ readsNat State.reset 0x004 0x11D ∧ readsNat State.reset 0x008 0xFFFFFE ∧
    (∀ off ∈ [0x00C, 0x010, 0x014, 0x018, 0x01C, 0x020, 0x024, 0x028, 0x02C, 0x030, 0x034], readsNat State.reset off 0) ∧
    (∀ j, j < 254 → readsNat State.reset (0x800 + 4 * j) 0) ∧
    (∀ i, i < 255 → readsNat State.reset (0xC00 + 4 * i) 0) ∧
    (∀ k, k < 127 → readsNat State.reset (0x1000 + 4 * k) 0 ∧ readsNat State.reset (0x1400 + 4 * k) 0) ∧
    (∀ i, i < 255 → readsField State.reset (0x400 + 4 * i) (Config.resetContents 0 (0x400 + 4 * i)))

/-! ### The port -/

/-- `20_memory.md` R63: a misaligned transaction is a bus error and changes no state. -/
def Obligations.MisalignedAccessIsBusError : Prop :=
  ∀ (s : State) (rest : List Request) (off : Offset) (q : Request), off.toNat % 4 ≠ 0 →
    (q = .read off ∨ ∃ v, q = .write off v) → s.requests = q :: rest →
    step s = .next { s with requests := rest, response := some (.busError off) }

/-- `20_memory.md` R64: an offset that the map does not list is a bus error and changes no state; a cell of the
storage is listed whatever `FF_SIZE` is, and can be read and written. -/
def Obligations.UnlistedOffsetIsBusError : Prop :=
  ∀ (s : State) (rest : List Request) (off : Offset) (q : Request),
    (q = .read off ∨ ∃ v, q = .write off v) → s.requests = q :: rest →
    (¬ listedOffset s.cfg off.toNat →
      step s = .next { s with requests := rest, response := some (.busError off) }) ∧
    (∀ y x, y < s.cfg.gridMax → x < s.cfg.gridMax → off.toNat = 0x40000 + 4 * (256 * y + x) →
      ∃ t, step s = .next t ∧ t.response ≠ some (.busError off))

/-- `20_memory.md` R65: a write to a read-only location is a bus error and changes no state. -/
def Obligations.ReadOnlyWriteIsBusError : Prop :=
  ∀ (s : State) (rest : List Request) (off : Offset) (v : Word), readOnlyOffset s.cfg off.toNat →
    s.requests = .write off v :: rest →
    step s = .next { s with requests := rest, response := some (.busError off) }

/-- `20_memory.md` R68: a read changes no state, and two reads in a row return the same. -/
def Obligations.ReadsHaveNoSideEffect : Prop :=
  ∀ (s : State) (rest : List Request) (off : Offset), s.requests = .read off :: rest →
    (∃ r, step s = .next { s with requests := rest, response := some r }) ∧
    (∀ rest' t u, rest = .read off :: rest' → step s = .next t → step t = .next u → u.response = t.response)

/-- `20_memory.md` R66: a read returns the field of its location zero-extended, and a write stores only the
field's bits, so that a read after it returns them; one clause per location of the map. -/
def Obligations.ReadsAndWritesUseTheFieldBits : Prop :=
  ∀ s : State,
    (readsField s 0x014 s.rsN ∧ readsField s 0x018 s.rsNsym ∧ readsField s 0x01C s.rsL ∧
      readsField s 0x020 s.rsErrcnt ∧ readsField s 0x024 s.ffSize ∧ readsField s 0x028 s.ffIdx ∧
      readsField s 0x02C s.ffCnt ∧ readsField s 0x030 s.ffData ∧ readsNat s 0x00C 0 ∧
      readsNat s 0x010 ((codeBits s.status.code).toNat + 16 * (stageBits s.status.stage).toNat +
        128 * s.status.szero.toNat + 256 * (ffStateBits s.status.ffState).toNat) ∧
      readsNat s 0x034 (s.ffLast.x.toNat + 256 * s.ffLast.y.toNat + 65536 * s.ffLast.valid.toNat) ∧
      (∀ i, i < 255 → readsField s (0x400 + 4 * i) (s.cw i)) ∧
      (∀ j, j < s.cfg.nsymMax → readsField s (0x800 + 4 * j) (s.syn.getD j 0)) ∧
      (∀ i, i < s.cfg.nsymMax + 1 → readsField s (0xC00 + 4 * i) (s.lambda.getD i 0)) ∧
      (∀ k, k < s.cfg.nsymMax / 2 → readsField s (0x1000 + 4 * k) (s.errloc.getD k 0)) ∧
      (∀ k, k < s.cfg.nsymMax / 2 → readsField s (0x1400 + 4 * k) (s.errval.getD k 0)) ∧
      (∀ y x, y < s.cfg.gridMax → x < s.cfg.gridMax →
        readsField s (0x40000 + 4 * (256 * y + x)) (s.cell y x))) ∧
    (∀ v : Word,
      (∀ off, off = 0x014 ∨ off = 0x018 ∨ off = 0x024 ∨ (∃ i, i < 255 ∧ off = 0x400 + 4 * i) →
        ∃ t, busWrite (BitVec.ofNat 19 off) v s = .next t ∧ t.response = some .completed ∧
          readsField t off (v.setWidth 8)) ∧
      (∀ y x, y < s.cfg.gridMax → x < s.cfg.gridMax →
        ∃ t, busWrite (BitVec.ofNat 19 (0x40000 + 4 * (256 * y + x))) v s = .next t ∧
          t.response = some .completed ∧ readsField t (0x40000 + 4 * (256 * y + x)) (v.setWidth 2)))

/-- `10_state.md` R24, R25, R26: the constants, for every configuration and with the defaults; a write to one is a
bus error. -/
def Obligations.IdentityAndCapabilityRegistersAreConstants : Prop :=
  ∀ s : State,
    readsNat s 0x000 0x52534646 ∧
    readsNat s 0x004 (s.cfg.primPoly.toNat + 65536 * s.cfg.fcr) ∧
    readsNat s 0x008 (s.cfg.nsymMax + 256 * 255 + 65536 * s.cfg.gridMax) ∧
    (s.cfg = Config.default → readsNat s 0x004 0x0000011D ∧ readsNat s 0x008 0x00FFFFFE) ∧
    ∀ (v : Word) (off : Offset), off = 0x000 ∨ off = 0x004 ∨ off = 0x008 →
      busWrite off v s = .next { s with response := some (.busError off) }

/-- `20_memory.md` R69: the effects of a write beyond its field. `CMD` executes a command and stores nothing;
`RS_N`, `RS_NSYM`, `CW[i]` force `STAGE` to `NONE` and `SZERO` to 0; `FF_SIZE`, `CELL[y][x]` force `FF_STATE` to
`IDLE`; every other location reads as before. -/
def Obligations.WriteSideEffectsAreExactlyTheListedOnes : Prop :=
  (∀ (s : State) (v : Word), busWrite 0x00C v s = issue v { s with response := some .completed } ∧ readsNat s 0x00C 0) ∧
  ∀ (s t : State) (off : Offset) (v : Word), off ≠ 0x00C → busWrite off v s = .next t →
    (rsWriteOffset off.toNat → t.status = { s.status with stage := .none, szero := false }) ∧
    (ffWriteOffset s.cfg off.toNat → t.status = { s.status with ffState := .idle }) ∧
    (¬ rsWriteOffset off.toNat → ¬ ffWriteOffset s.cfg off.toNat → t.status = s.status) ∧
    (∀ off' : Offset, off' ≠ off → off' ≠ 0x010 → (busRead off' t).response = (busRead off' s).response) ∧
    t.cfg = s.cfg ∧ t.requests = s.requests ∧ t.resets = s.resets

/-- A transaction that is not a `CMD` write never changes `CODE` (from `10_state.md` R23), nor does a bus error
(`60_exceptions.md` R233). -/
def Obligations.OnlyCommandsChangeCode : Prop :=
  ∀ (s t : State) (q : Request) (rest : List Request), s.requests = q :: rest → plainMove q →
    step s = .next t → t.status.code = s.status.code

/-- Only the host writes `CELL` (from `10_state.md` R42): a step changes a cell of the 256-word rows only when the
move is a write to that cell or a hardware reset. -/
def Obligations.OnlyTheHostChangesCells : Prop :=
  ∀ (s t : State) (y x : Nat), x < 256 → step s = .next t → t.cell y x ≠ s.cell y x →
    ∃ rest, s.requests = .hardReset :: rest ∨
      ∃ off v, s.requests = .write off v :: rest ∧ off.toNat = 0x40000 + 4 * (256 * y + x)

/-- What writes `CW` (from `10_state.md` R37): a step changes `CW[i]` only when the move is a host write to it, a
hardware reset, or one of `FF_FILL`, `RS_APL`, `RS_DEC` with `i < RS_N`. -/
def Obligations.OnlyListedMovesChangeCodewords : Prop :=
  ∀ (s t : State) (i : Nat), i < 255 → step s = .next t → t.cw i ≠ s.cw i →
    ∃ rest, s.requests = .hardReset :: rest ∨
      (∃ off v, s.requests = .write off v :: rest ∧ off.toNat = 0x400 + 4 * i) ∨
      (i < s.n ∧ ∃ w, s.requests = .write 0x00C w :: rest ∧
        (decode w = .ok .ffFill ∨ decode w = .ok .rsApl ∨ decode w = .ok .rsDec))

/-! ### GF(256) -/

/-- `40_gf256.md` R112: the product of the two polynomials reduced modulo the field polynomial (a multiple of the
polynomial away from the carry-less product), with the listed values. -/
def Obligations.FieldProductIsReducedPolynomialProduct : Prop :=
  (∀ (c : Config) (a b : Byte), ∃ q, q < 256 ∧
    clmul a.toNat b.toNat 8 = clmul c.primPoly.toNat q 8 ^^^ (gfMul c.primPoly a b).toNat) ∧
  (∀ (c : Config) (a : Byte), gfMul c.primPoly a 0 = 0 ∧ gfMul c.primPoly 0 a = 0 ∧ gfMul c.primPoly a 1 = a) ∧
  gfMul 0x11D 0x80 0x02 = 0x1D ∧ gfMul 0x11D 0x53 0xCA = 0x8F ∧ gfMul 0x11D 0xFF 0xFF = 0xE2 ∧
  gfMul 0x11D 0x03 0x07 = 0x09 ∧ gfMul 0x12D 0x80 0x02 = 0x2D

/-- `40_gf256.md` R120: the field laws, for every legal polynomial. -/
def Obligations.FieldLawsHold : Prop :=
  ∀ c : Config,
    (∀ a b : Byte, gfAdd a b = gfAdd b a ∧ gfMul c.primPoly a b = gfMul c.primPoly b a) ∧
    (∀ a b d : Byte, gfAdd (gfAdd a b) d = gfAdd a (gfAdd b d) ∧
      gfMul c.primPoly (gfMul c.primPoly a b) d = gfMul c.primPoly a (gfMul c.primPoly b d)) ∧
    (∀ a b d : Byte, gfMul c.primPoly a (gfAdd b d) = gfAdd (gfMul c.primPoly a b) (gfMul c.primPoly a d)) ∧
    (∀ a : Byte, gfAdd a a = 0) ∧
    (∀ a b : Byte, gfMul c.primPoly a b = 0 ↔ a = 0 ∨ b = 0) ∧
    (∀ (p : List Byte) (d : Nat) (roots : List Byte), p.getD d 0 ≠ 0 → (∀ i, d < i → p.getD i 0 = 0) →
      roots.Nodup → (∀ v ∈ roots, polyEval c.primPoly p v = 0) → roots.length ≤ d) ∧
    (∀ a b : Int, gfExp c.primPoly (a + b) = gfMul c.primPoly (gfExp c.primPoly a) (gfExp c.primPoly b))

/-- The powers of the generator (`40_gf256.md` section 1, R113): period 255, the 255 nonzero bytes once each, and
`gf_exp(-p)` the inverse of `gf_exp(p)`. -/
def Obligations.GeneratorPowersAreTheNonzeroElements : Prop :=
  ∀ c : Config,
    (∀ e : Int, gfExp c.primPoly (e + 255) = gfExp c.primPoly e) ∧
    (∀ a : Byte, a ≠ 0 → ∃ e, e < 255 ∧ gfExp c.primPoly (e : Nat) = a ∧
      ∀ f, f < 255 → gfExp c.primPoly (f : Nat) = a → f = e) ∧
    (∀ e : Int, gfExp c.primPoly e ≠ 0) ∧
    (∀ e : Int, gfMul c.primPoly (gfExp c.primPoly e) (gfExp c.primPoly (-e)) = 1)

/-- The inverse (`40_gf256.md` section 1, R114). -/
def Obligations.InverseTimesElementIsOne : Prop :=
  ∀ c : Config, gfInv c.primPoly 0 = 0 ∧ ∀ a : Byte, a ≠ 0 → gfMul c.primPoly a (gfInv c.primPoly a) = 1

/-- `40_gf256.md` R116: a 9-bit value with bit 8 set is legal exactly when the powers of `0x02` take 255 distinct
values and return to 1. -/
def Obligations.LegalPolynomialsAreThePrimitiveOnes : Prop :=
  ∀ p : BitVec 9, p.getLsbD 8 = true →
    (p ∈ legalPolynomials ↔
      (∀ i j, i < 255 → j < 255 → gfPow p 0x02 i = gfPow p 0x02 j → i = j) ∧ gfPow p 0x02 255 = 0x01)

/-- Horner's rule evaluates the polynomial (`40_gf256.md` section 2, R118), and trailing zeros do not matter. -/
def Obligations.PolyEvalIsTheSumOfItsTerms : Prop :=
  ∀ (c : Config) (p : List Byte) (v : Byte),
    polyEval c.primPoly p v = xorSum p.length (fun i => gfMul c.primPoly (p.getD i 0) (gfPow c.primPoly v i)) ∧
    (∀ k, polyEval c.primPoly (p ++ List.replicate k 0) v = polyEval c.primPoly p v) ∧
    polyEval c.primPoly p 0 = p.getD 0 0

/-- `40_gf256.md` R119: the formal derivative. -/
def Obligations.DerivativeKeepsOddCoefficients : Prop :=
  ∀ p : List Byte, (derivative p).length = p.length - 1 ∧
    ∀ i, 1 ≤ i → i < p.length → (derivative p).getD (i - 1) 0 = if i % 2 = 1 then p.getD i 0 else 0

/-! ### Reed-Solomon commands -/

/-- `41_rs_commands.md` R142: syndrome `j` is the word, read as the polynomial of R140, at `alpha^(FCR+j)`. -/
def Obligations.SyndromeIsTheWordAtARootOfTheCode : Prop :=
  ∀ (c : Config) (w : List Byte) (j : Nat),
    syndrome c w j = xorSum w.length fun i =>
      gfMul c.primPoly (w.getD i 0) (gfExp c.primPoly ((c.fcr + j : Int) * ((w.length : Int) - 1 - i)))

/-- `41_rs_commands.md` R143: `RS_SYN`. -/
def Obligations.RsSynWritesTheSyndromes : Prop :=
  decode 0x00000010 = .ok .rsSyn ∧ ∀ s : State,
    (¬ rsConfig s → exec .rsSyn s = .next (onlyCode s .errCfg)) ∧
    (rsConfig s → ∃ t, exec .rsSyn s = .next t ∧
      (∀ j, j < s.nsym → t.synAt j = syndrome s.cfg s.buffer j) ∧
      (∀ j, s.nsym ≤ j → j < s.cfg.nsymMax → t.synAt j = 0) ∧ t.syn.length = s.cfg.nsymMax ∧
      t.status.code = .ok ∧ t.status.stage = .syn ∧
      (t.status.szero = true ↔ ∀ j, j < s.nsym → t.synAt j = 0) ∧
      t.lambda = s.lambda ∧ t.rsL = s.rsL ∧ t.errloc = s.errloc ∧ t.rsErrcnt = s.rsErrcnt ∧ t.errval = s.errval ∧
      keepsOperands s t ∧ keepsCursor s t ∧ keepsMemory s t ∧ keepsPort s t)

/-- `RS_KES` (`41_rs_commands.md` section 3): `LAMBDA` and `RS_L` are the loop's result whether or not the length
is within capacity, and `STAGE` advances only if it is. -/
def Obligations.RsKesWritesTheLocator : Prop :=
  decode 0x00000011 = .ok .rsKes ∧ ∀ s : State,
    (s.status.stage ≠ .syn → exec .rsKes s = .next (onlyCode s .errSeq)) ∧
    (s.status.stage = .syn → ∃ t, exec .rsKes s = .next t ∧
      t.lambda = (solveKey s.cfg s.syn s.nsym).conn ∧ t.rsL.toNat = (solveKey s.cfg s.syn s.nsym).len ∧
      (s.nsym / 2 < t.rsL.toNat → t.status.code = .errUncorr ∧ t.status.stage = .syn) ∧
      (t.rsL.toNat ≤ s.nsym / 2 → t.status.code = .ok ∧ t.status.stage = .kes) ∧
      t.status.szero = s.status.szero ∧
      t.syn = s.syn ∧ t.errloc = s.errloc ∧ t.rsErrcnt = s.rsErrcnt ∧ t.errval = s.errval ∧
      keepsOperands s t ∧ keepsCursor s t ∧ keepsMemory s t ∧ keepsPort s t)

/-- Properties of the key-equation solver (`41_rs_commands.md` section 3, R146 (a) to (d), (f)): constant term 1,
nothing beyond the register length, and the linear recurrence of the syndromes. -/
def Obligations.KeySolverSatisfiesTheRecurrence : Prop :=
  ∀ (c : Config) (syn : List Byte) (nsym : Nat), nsym ≤ c.nsymMax →
    (solveKey c syn nsym).conn.length = c.nsymMax + 1 ∧
    (solveKey c syn nsym).conn.getD 0 0 = 1 ∧
    (solveKey c syn nsym).len ≤ nsym ∧
    (∀ i, (solveKey c syn nsym).len < i → (solveKey c syn nsym).conn.getD i 0 = 0) ∧
    (solveKey c syn nsym).disc ≠ 0 ∧
    ∀ n, (solveKey c syn nsym).len ≤ n → n < nsym →
      syn.getD n 0 = xorSum (solveKey c syn nsym).len fun i =>
        gfMul c.primPoly ((solveKey c syn nsym).conn.getD (i + 1) 0) (syn.getD (n - (i + 1)) 0)

/-- `RS_L = 0` exactly when every syndrome is zero (from `41_rs_commands.md` R157 (a)). -/
def Obligations.KeySolverLengthIsZeroExactlyForZeroSyndromes : Prop :=
  ∀ (c : Config) (syn : List Byte) (nsym : Nat), nsym ≤ c.nsymMax →
    ((solveKey c syn nsym).len = 0 ↔ ∀ j, j < nsym → syn.getD j 0 = 0)

/-- `41_rs_commands.md` R148: `RS_CHN` lists the root positions in ascending buffer index. -/
def Obligations.RsChnListsTheRootPositions : Prop :=
  decode 0x00000012 = .ok .rsChn ∧ ∀ s : State,
    (s.status.stage ≠ .kes → exec .rsChn s = .next (onlyCode s .errSeq)) ∧
    (s.status.stage = .kes → ∃ t, exec .rsChn s = .next t ∧
      (∀ found, found = (List.range s.n).filter (fun i => locatorAt s i == 0) →
        t.rsErrcnt.toNat = found.length ∧ t.errloc.length = s.cfg.nsymMax / 2 ∧
        (∀ k, k < s.cfg.nsymMax / 2 → t.errlocAt k = found.getD k 0) ∧
        (found.length ≠ s.rsL.toNat → t.status.code = .errUncorr ∧ t.status.stage = .kes) ∧
        (found.length = s.rsL.toNat → t.status.code = .ok ∧ t.status.stage = .chn)) ∧
      t.status.szero = s.status.szero ∧
      t.syn = s.syn ∧ t.lambda = s.lambda ∧ t.rsL = s.rsL ∧ t.errval = s.errval ∧
      keepsOperands s t ∧ keepsCursor s t ∧ keepsMemory s t ∧ keepsPort s t)

/-- `41_rs_commands.md` R150: `RS_FNY` writes Forney's values. -/
def Obligations.RsFnyWritesTheErrorValues : Prop :=
  decode 0x00000013 = .ok .rsFny ∧ ∀ s : State,
    (s.status.stage ≠ .chn → exec .rsFny s = .next (onlyCode s .errSeq)) ∧
    (s.status.stage = .chn → ∃ t, exec .rsFny s = .next t ∧
      (∀ omega : List Byte, omega.length = s.nsym →
        (∀ k, k < s.nsym → omega.getD k 0 =
          xorSum (k + 1) fun i => gfMul s.cfg.primPoly (s.syn.getD i 0) (s.lambda.getD (k - i) 0)) →
        ∀ (q : Nat) (p : Int), q < s.rsErrcnt.toNat → q < s.cfg.nsymMax / 2 → p = (s.n : Int) - 1 - s.errlocAt q →
          t.errvalAt q = gfMul s.cfg.primPoly (gfExp s.cfg.primPoly (p * (1 - (s.cfg.fcr : Int))))
            (gfMul s.cfg.primPoly (polyEval s.cfg.primPoly omega (gfExp s.cfg.primPoly (-p)))
              (gfInv s.cfg.primPoly (polyEval s.cfg.primPoly (derivative s.lambda) (gfExp s.cfg.primPoly (-p)))))) ∧
      (∀ q, s.rsErrcnt.toNat ≤ q → q < s.cfg.nsymMax / 2 → t.errvalAt q = 0) ∧
      t.errval.length = s.cfg.nsymMax / 2 ∧
      t.status.code = .ok ∧ t.status.stage = .fny ∧ t.status.szero = s.status.szero ∧
      t.syn = s.syn ∧ t.lambda = s.lambda ∧ t.rsL = s.rsL ∧ t.errloc = s.errloc ∧ t.rsErrcnt = s.rsErrcnt ∧
      keepsOperands s t ∧ keepsCursor s t ∧ keepsMemory s t ∧ keepsPort s t)

/-- `41_rs_commands.md` R152: `RS_APL` commits the candidate exactly when it is a codeword. -/
def Obligations.RsAplCommitsACandidateThatIsACodeword : Prop :=
  decode 0x00000014 = .ok .rsApl ∧ ∀ s : State,
    (s.status.stage ≠ .fny → exec .rsApl s = .next (onlyCode s .errSeq)) ∧
    (s.status.stage = .fny → ∀ cand : List Byte, cand.length = s.n →
      (∀ i, i < s.n → cand.getD i 0 =
        s.cw i ^^^ xorSum s.rsErrcnt.toNat (fun q => if s.errlocAt q = i then s.errvalAt q else 0)) →
      ((∃ j, j < s.nsym ∧ syndrome s.cfg cand j ≠ 0) → exec .rsApl s = .next (onlyCode s .errUncorr)) ∧
      ((∀ j, j < s.nsym → syndrome s.cfg cand j = 0) → ∃ t, exec .rsApl s = .next t ∧
        (∀ i, i < s.n → t.cw i = cand.getD i 0) ∧
        (∀ a, (∀ i, i < s.n → a ≠ cwOffset i) → t.peek a = s.peek a) ∧
        t.status = { s.status with code := .ok, stage := .apl } ∧
        keepsOperands s t ∧ keepsCursor s t ∧ keepsRsResults s t ∧ keepsPort s t))

/-- `41_rs_commands.md` R154: the state after `RS_DEC` is the state after the stage commands issued one by one up to
and including the first that did not end `OK`. -/
def Obligations.RsDecEqualsTheStagesOneByOne : Prop :=
  decode 0x0000001F = .ok .rsDec ∧ ∀ s : State, exec .rsDec s = untilFailure [.rsSyn, .rsKes, .rsChn, .rsFny, .rsApl] s

/-- The outcomes of `RS_DEC` (from `41_rs_commands.md` R154): `ERR_CFG` with nothing else changed, `OK` at `APL`, or
`ERR_UNCORR` at `SYN`, `KES` or `FNY`; never `ERR_SEQ`. -/
def Obligations.RsDecOutcomes : Prop :=
  ∀ s : State,
    (¬ rsConfig s → exec .rsDec s = .next (onlyCode s .errCfg)) ∧
    (rsConfig s → ∃ t, exec .rsDec s = .next t ∧
      ((t.status.code = .ok ∧ t.status.stage = .apl) ∨
       (t.status.code = .errUncorr ∧ (t.status.stage = .syn ∨ t.status.stage = .kes ∨ t.status.stage = .fny))))

/-- An `OK` of `RS_DEC` leaves a codeword that differs from the received word in at most `RS_ERRCNT <= t` places
(from `41_rs_commands.md` R156 (a)). -/
def Obligations.RsDecOkLeavesACodewordWithinCapacity : Prop :=
  ∀ s t : State, rsConfig s → exec .rsDec s = .next t → t.status.code = .ok →
    (∀ j, j < s.nsym → syndrome s.cfg t.buffer j = 0) ∧
    ((List.range s.n).countP fun i => t.cw i != s.cw i) ≤ t.rsErrcnt.toNat ∧
    t.rsErrcnt.toNat ≤ s.nsym / 2

/-- `41_rs_commands.md` R153: on every failure of every Reed-Solomon command the buffer, and every other byte of
memory, is unchanged; only a successful `RS_APL`, alone or in `RS_DEC`, writes it. -/
def Obligations.FailedRsCommandLeavesTheBuffer : Prop :=
  ∀ (i : Instr) (s t : State), isRs i → exec i s = .next t →
    t.status.code ≠ .ok ∨ (i ≠ .rsApl ∧ i ≠ .rsDec) → keepsMemory s t

/-- A buffer that is already a codeword (from `41_rs_commands.md` R154, R157): `RS_DEC` ends `OK` with `SZERO = 1`,
no error counted, and every byte as it was. -/
def Obligations.RsDecAcceptsACodewordUnchanged : Prop :=
  ∀ s : State, rsConfig s → (∀ j, j < s.nsym → syndrome s.cfg s.buffer j = 0) →
    ∃ t, exec .rsDec s = .next t ∧ t.status.code = .ok ∧ t.status.stage = .apl ∧ t.status.szero = true ∧
      t.rsL = 0 ∧ t.rsErrcnt = 0 ∧ keepsMemory s t ∧ keepsOperands s t ∧ keepsCursor s t ∧ keepsPort s t

/-- What no Reed-Solomon command touches (from `30_encoding.md` R96): operand registers, filler registers, and
every byte of memory outside `CW[0..RS_N-1]`; all of memory for the first four stages. -/
def Obligations.RsCommandsLeaveOperandsFillerAndOtherMemory : Prop :=
  ∀ (i : Instr) (s t : State), isRs i → exec i s = .next t →
    keepsOperands s t ∧ keepsCursor s t ∧ keepsPort s t ∧
    (∀ a, (∀ k, k < s.n → a ≠ cwOffset k) → t.peek a = s.peek a) ∧
    (i ≠ .rsApl → i ≠ .rsDec → keepsMemory s t)

/-- No outcome depends on an earlier attempt (from `70_reset_and_hazards.md` R263): two blocks with the same
parameters, operands and buffer give the same decode, whatever else they hold. -/
def Obligations.RsDecDependsOnItsOperandsOnly : Prop :=
  ∀ s s' t t' : State, s.cfg = s'.cfg → s.rsN = s'.rsN → s.rsNsym = s'.rsNsym → rsConfig s →
    (∀ i, i < s.n → s.cw i = s'.cw i) → exec .rsDec s = .next t → exec .rsDec s' = .next t' →
    t.status.code = t'.status.code ∧ t.status.stage = t'.status.stage ∧ t.status.szero = t'.status.szero ∧
    t.syn = t'.syn ∧ t.lambda = t'.lambda ∧ t.rsL = t'.rsL ∧
    (t.status.stage ≠ .syn → t.errloc = t'.errloc ∧ t.rsErrcnt = t'.rsErrcnt) ∧
    (t.status.stage = .apl → t.errval = t'.errval) ∧
    ∀ i, i < s.n → t.cw i = t'.cw i

/-- `41_rs_commands.md` R155: up to `t` byte errors are corrected exactly, by `RS_DEC` or stage by stage. -/
def Obligations.RsDecCorrectsUpToCapacity : Prop :=
  ∀ (s : State) (w : List Byte) (errors : List Nat), rsConfig s → w.length = s.n →
    (∀ j, j < s.nsym → syndrome s.cfg w j = 0) →
    errors = (List.range s.n).filter (fun i => s.cw i != w.getD i 0) → errors.length ≤ s.nsym / 2 →
    ∃ t, exec .rsDec s = .next t ∧ untilFailure [.rsSyn, .rsKes, .rsChn, .rsFny, .rsApl] s = .next t ∧
      t.status.code = .ok ∧ t.status.stage = .apl ∧
      (∀ i, i < s.n → t.cw i = w.getD i 0) ∧
      t.rsErrcnt.toNat = errors.length ∧ t.rsL.toNat = errors.length ∧
      ∀ k, k < errors.length → t.errlocAt k = errors.getD k 0 ∧
        t.errvalAt k = s.cw (errors.getD k 0) ^^^ w.getD (errors.getD k 0) 0 ∧ t.errvalAt k ≠ 0

/-! ### Frame filler commands -/

/-- The path visits every cell of the square exactly once, and every other candidate is one of the `s` off-grid ones
of an odd side (`42_ff_commands.md` section 1, R182, R183 (a)). -/
def Obligations.PathVisitsEveryCellOnce : Prop :=
  ∀ side : Nat, 1 ≤ side →
    (∀ x y : Nat, x < side → y < side →
      ∃ idx, idx < idxEnd side ∧ cellOf idx side = ((x : Int), y) ∧
        ∀ idx', idx' < idxEnd side → cellOf idx' side = ((x : Int), y) → idx' = idx) ∧
    (∀ idx, idx < idxEnd side →
      (cellOf idx side).2 < side ∧ (cellOf idx side).1 < side ∧
      ((cellOf idx side).1 < 0 → (cellOf idx side).1 = -1 ∧ side % 2 = 1)) ∧
    ((List.range (idxEnd side)).countP fun idx => decide ((cellOf idx side).1 < 0)) = (if side % 2 = 1 then side else 0)

/-- `42_ff_commands.md` R185: `FF_START`. -/
def Obligations.FfStartRestartsTheCursor : Prop :=
  decode 0x00000020 = .ok .ffStart ∧ ∀ s : State,
    (¬ ffConfig s → exec .ffStart s = .next (onlyCode s .errCfg)) ∧
    (ffConfig s → ∃ t, exec .ffStart s = .next t ∧ t.ffIdx = 0 ∧ t.ffCnt = 0 ∧ t.ffData = 0 ∧
      lastCellWord t.ffLast = 0 ∧ t.status = { s.status with code := .ok, ffState := .active } ∧
      keepsOperands s t ∧ keepsRsResults s t ∧ keepsMemory s t ∧ keepsPort s t)

/-- `42_ff_commands.md` R188: `FF_GET n`, with the idle case, the success and the underrun, on a cursor inside its
path. `rem` are the data-bearing cells still ahead. -/
def Obligations.FfGetYieldsTheNextBits : Prop :=
  (∀ n : BitVec 8, n.toNat = 0 ∨ 8 < n.toNat → decode (0x00000021 + 0x100 * n.setWidth 32) = .error .badCount) ∧
  ∀ (s : State) (n : BitVec 8), 1 ≤ n.toNat → n.toNat ≤ 8 →
    decode (0x00000021 + 0x100 * n.setWidth 32) = .ok (.ffGet n) ∧
    (s.status.ffState = .idle → exec (.ffGet n) s = .next (onlyCode s .errSeq)) ∧
    (s.status.ffState ≠ .idle → s.ffIdx.toNat ≤ idxEnd s.side →
      ∀ rem, rem = dataFrom s s.ffIdx.toNat → ∃ t, exec (.ffGet n) s = .next t ∧
        (n.toNat ≤ rem.length →
          t.status = { s.status with code := .ok } ∧
          (∀ b, b < n.toNat → t.ffData.getLsbD (n.toNat - 1 - b) = darkAt s (rem.getD b 0)) ∧
          (∀ b, n.toNat ≤ b → t.ffData.getLsbD b = false) ∧
          t.ffIdx.toNat = rem.getD (n.toNat - 1) 0 + 1 ∧ t.ffCnt = s.ffCnt + n.setWidth 16 ∧
          t.ffLast = lastAt s (rem.getD (n.toNat - 1) 0)) ∧
        (rem.length < n.toNat →
          t.status = { s.status with code := .errUnderrun, ffState := .ended } ∧
          t.ffData = s.ffData ∧ t.ffIdx.toNat = idxEnd s.side ∧
          t.ffCnt = s.ffCnt + BitVec.ofNat 16 rem.length ∧
          t.ffLast = (if rem = [] then s.ffLast else lastAt s (rem.getD (rem.length - 1) 0))) ∧
        keepsOperands s t ∧ keepsRsResults s t ∧ keepsMemory s t ∧ keepsPort s t)

/-- Group size does not matter (from `42_ff_commands.md` R189): `k` commands `FF_GET 1` and one `FF_GET k` differ in
`FF_DATA` only. -/
def Obligations.FfGetOneByOneEqualsOneGroup : Prop :=
  ∀ (s : State) (k : BitVec 8), 1 ≤ k.toNat → k.toNat ≤ 8 →
    ∃ t u, issueTimes (.ffGet 1) k.toNat s = .next t ∧ exec (.ffGet k) s = .next u ∧ { t with ffData := u.ffData } = u

/-- `42_ff_commands.md` R190: `FF_FILL`. `all` are the data-bearing cells of the path in path order. -/
def Obligations.FfFillAssemblesTheCodewords : Prop :=
  decode 0x0000002F = .ok .ffFill ∧ ∀ s : State,
    (¬ (ffConfig s ∧ 1 ≤ s.n) → exec .ffFill s = .next (onlyCode s .errCfg)) ∧
    (ffConfig s → 1 ≤ s.n → ∀ all, all = dataFrom s 0 → ∃ t, exec .ffFill s = .next t ∧
      t.status.stage = .none ∧ t.status.szero = false ∧ t.ffData = 0 ∧
      (∀ i b, i < s.n → 8 * (i + 1) ≤ all.length → b < 8 →
        (t.cw i).getLsbD (7 - b) = darkAt s (all.getD (8 * i + b) 0)) ∧
      (∀ a, (∀ i, i < s.n → 8 * (i + 1) ≤ all.length → a ≠ cwOffset i) → t.peek a = s.peek a) ∧
      (all.length < 8 * s.n → t.status.code = .errUnderrun ∧ t.status.ffState = .ended ∧
        t.ffIdx.toNat = idxEnd s.side ∧ t.ffCnt.toNat = all.length ∧
        t.ffLast = (if all = [] then LastCell.zero else lastAt s (all.getD (all.length - 1) 0))) ∧
      (all.length = 8 * s.n → t.status.code = .ok ∧ t.status.ffState = .ended ∧ t.ffIdx.toNat = idxEnd s.side) ∧
      (8 * s.n < all.length → t.status.code = .errLeftover ∧ t.status.ffState = .active ∧
        t.ffIdx.toNat = all.getD (8 * s.n) 0) ∧
      (8 * s.n ≤ all.length → t.ffCnt.toNat = 8 * s.n ∧ t.ffLast = lastAt s (all.getD (8 * s.n - 1) 0)) ∧
      keepsOperands s t ∧ keepsRsResults s t ∧ keepsPort s t)

/-- `42_ff_commands.md` R191: the outcome of `FF_FILL` is decided by the number of data-bearing cells of the square. -/
def Obligations.FfFillOutcomeIsTheCellCount : Prop :=
  ∀ s : State, ffConfig s → 1 ≤ s.n → ∃ t, exec .ffFill s = .next t ∧
    (t.status.code = .ok ↔ dataCells s = 8 * s.n) ∧
    (t.status.code = .errUnderrun ↔ dataCells s < 8 * s.n) ∧
    (t.status.code = .errLeftover ↔ 8 * s.n < dataCells s) ∧
    (dataCells s = 8 * s.n → t.ffCnt.toNat = 8 * s.n)

/-! ### Invariants and the whole machine -/

/-- Every step keeps the sizes of the arrays and the canonical form of the memory (`10_state.md` R37 to R42, log 5). -/
def Obligations.StepKeepsShape : Prop := ∀ s t : State, ShapeOk s → step s = .next t → ShapeOk t

/-- Every step keeps what `STAGE` promises of the result registers (`70_reset_and_hazards.md` R268, `10_state.md`
R46): in particular `SYN` holds the syndromes of the current buffer from `SYN` to `FNY`, and the buffer is a codeword
at `APL`. -/
def Obligations.StepKeepsPipeline : Prop := ∀ s t : State, PipelineOk s → step s = .next t → PipelineOk t

/-- Every step keeps what `FF_STATE` promises of the cursor (`10_state.md` R33, R34, R36, R47). -/
def Obligations.StepKeepsCursor : Prop := ∀ s t : State, CursorOk s → step s = .next t → CursorOk t

/-- The three invariants hold after hardware reset, whatever the configuration (`70_reset_and_hazards.md` section 1).
-/
def Obligations.ResetMeetsTheInvariants : Prop :=
  ∀ c : Config, ShapeOk (State.resetOf c) ∧ PipelineOk (State.resetOf c) ∧ CursorOk (State.resetOf c)

/-- The parameters never change (from `10_state.md` R45; holding them in State is the model's choice, log 4). -/
def Obligations.StepNeverChangesTheConfiguration : Prop := ∀ s t : State, step s = .next t → t.cfg = s.cfg

/-- Nothing is stuck (from `20_memory.md` R75, `60_exceptions.md` R241): every step answers a next state. -/
def Obligations.EveryStepAnswersANextState : Prop := ∀ s : State, ∃ t, step s = .next t
end

