-- ==== Sys2Proof/Laws/State.lean ====
section
/-! SUPPORT. What each update of State does to each field, true by `rfl`: no later proof unfolds a record
update. -/

namespace Sys2Proof.Machine

/-! ### `done` -/

@[simp] theorem State.done_cfg (s : State) (c : Code) : (s.done c).cfg = s.cfg := rfl
@[simp] theorem State.done_status (s : State) (c : Code) : (s.done c).status = { s.status with code := c } := rfl
@[simp] theorem State.done_rsN (s : State) (c : Code) : (s.done c).rsN = s.rsN := rfl
@[simp] theorem State.done_rsNsym (s : State) (c : Code) : (s.done c).rsNsym = s.rsNsym := rfl
@[simp] theorem State.done_rsL (s : State) (c : Code) : (s.done c).rsL = s.rsL := rfl
@[simp] theorem State.done_rsErrcnt (s : State) (c : Code) : (s.done c).rsErrcnt = s.rsErrcnt := rfl
@[simp] theorem State.done_ffSize (s : State) (c : Code) : (s.done c).ffSize = s.ffSize := rfl
@[simp] theorem State.done_ffIdx (s : State) (c : Code) : (s.done c).ffIdx = s.ffIdx := rfl
@[simp] theorem State.done_ffCnt (s : State) (c : Code) : (s.done c).ffCnt = s.ffCnt := rfl
@[simp] theorem State.done_ffData (s : State) (c : Code) : (s.done c).ffData = s.ffData := rfl
@[simp] theorem State.done_ffLast (s : State) (c : Code) : (s.done c).ffLast = s.ffLast := rfl
@[simp] theorem State.done_syn (s : State) (c : Code) : (s.done c).syn = s.syn := rfl
@[simp] theorem State.done_lambda (s : State) (c : Code) : (s.done c).lambda = s.lambda := rfl
@[simp] theorem State.done_errloc (s : State) (c : Code) : (s.done c).errloc = s.errloc := rfl
@[simp] theorem State.done_errval (s : State) (c : Code) : (s.done c).errval = s.errval := rfl
@[simp] theorem State.done_mem (s : State) (c : Code) : (s.done c).mem = s.mem := rfl
@[simp] theorem State.done_requests (s : State) (c : Code) : (s.done c).requests = s.requests := rfl
@[simp] theorem State.done_response (s : State) (c : Code) : (s.done c).response = s.response := rfl
@[simp] theorem State.done_resets (s : State) (c : Code) : (s.done c).resets = s.resets := rfl

/-! ### `respond` -/

@[simp] theorem State.respond_cfg (s : State) (r : Response) : (s.respond r).cfg = s.cfg := rfl
@[simp] theorem State.respond_status (s : State) (r : Response) : (s.respond r).status = s.status := rfl
@[simp] theorem State.respond_rsN (s : State) (r : Response) : (s.respond r).rsN = s.rsN := rfl
@[simp] theorem State.respond_rsNsym (s : State) (r : Response) : (s.respond r).rsNsym = s.rsNsym := rfl
@[simp] theorem State.respond_rsL (s : State) (r : Response) : (s.respond r).rsL = s.rsL := rfl
@[simp] theorem State.respond_rsErrcnt (s : State) (r : Response) : (s.respond r).rsErrcnt = s.rsErrcnt := rfl
@[simp] theorem State.respond_ffSize (s : State) (r : Response) : (s.respond r).ffSize = s.ffSize := rfl
@[simp] theorem State.respond_ffIdx (s : State) (r : Response) : (s.respond r).ffIdx = s.ffIdx := rfl
@[simp] theorem State.respond_ffCnt (s : State) (r : Response) : (s.respond r).ffCnt = s.ffCnt := rfl
@[simp] theorem State.respond_ffData (s : State) (r : Response) : (s.respond r).ffData = s.ffData := rfl
@[simp] theorem State.respond_ffLast (s : State) (r : Response) : (s.respond r).ffLast = s.ffLast := rfl
@[simp] theorem State.respond_syn (s : State) (r : Response) : (s.respond r).syn = s.syn := rfl
@[simp] theorem State.respond_lambda (s : State) (r : Response) : (s.respond r).lambda = s.lambda := rfl
@[simp] theorem State.respond_errloc (s : State) (r : Response) : (s.respond r).errloc = s.errloc := rfl
@[simp] theorem State.respond_errval (s : State) (r : Response) : (s.respond r).errval = s.errval := rfl
@[simp] theorem State.respond_mem (s : State) (r : Response) : (s.respond r).mem = s.mem := rfl
@[simp] theorem State.respond_requests (s : State) (r : Response) : (s.respond r).requests = s.requests := rfl
@[simp] theorem State.respond_response (s : State) (r : Response) : (s.respond r).response = some r := rfl
@[simp] theorem State.respond_resets (s : State) (r : Response) : (s.respond r).resets = s.resets := rfl

/-! ### `setStage` -/

@[simp] theorem State.setStage_cfg (s : State) (st : Stage) : (s.setStage st).cfg = s.cfg := rfl
@[simp] theorem State.setStage_status (s : State) (st : Stage) : (s.setStage st).status = { s.status with stage := st } := rfl
@[simp] theorem State.setStage_rsN (s : State) (st : Stage) : (s.setStage st).rsN = s.rsN := rfl
@[simp] theorem State.setStage_rsNsym (s : State) (st : Stage) : (s.setStage st).rsNsym = s.rsNsym := rfl
@[simp] theorem State.setStage_rsL (s : State) (st : Stage) : (s.setStage st).rsL = s.rsL := rfl
@[simp] theorem State.setStage_rsErrcnt (s : State) (st : Stage) : (s.setStage st).rsErrcnt = s.rsErrcnt := rfl
@[simp] theorem State.setStage_ffSize (s : State) (st : Stage) : (s.setStage st).ffSize = s.ffSize := rfl
@[simp] theorem State.setStage_ffIdx (s : State) (st : Stage) : (s.setStage st).ffIdx = s.ffIdx := rfl
@[simp] theorem State.setStage_ffCnt (s : State) (st : Stage) : (s.setStage st).ffCnt = s.ffCnt := rfl
@[simp] theorem State.setStage_ffData (s : State) (st : Stage) : (s.setStage st).ffData = s.ffData := rfl
@[simp] theorem State.setStage_ffLast (s : State) (st : Stage) : (s.setStage st).ffLast = s.ffLast := rfl
@[simp] theorem State.setStage_syn (s : State) (st : Stage) : (s.setStage st).syn = s.syn := rfl
@[simp] theorem State.setStage_lambda (s : State) (st : Stage) : (s.setStage st).lambda = s.lambda := rfl
@[simp] theorem State.setStage_errloc (s : State) (st : Stage) : (s.setStage st).errloc = s.errloc := rfl
@[simp] theorem State.setStage_errval (s : State) (st : Stage) : (s.setStage st).errval = s.errval := rfl
@[simp] theorem State.setStage_mem (s : State) (st : Stage) : (s.setStage st).mem = s.mem := rfl
@[simp] theorem State.setStage_requests (s : State) (st : Stage) : (s.setStage st).requests = s.requests := rfl
@[simp] theorem State.setStage_response (s : State) (st : Stage) : (s.setStage st).response = s.response := rfl
@[simp] theorem State.setStage_resets (s : State) (st : Stage) : (s.setStage st).resets = s.resets := rfl

/-! ### `setSzero` -/

@[simp] theorem State.setSzero_cfg (s : State) (z : Bool) : (s.setSzero z).cfg = s.cfg := rfl
@[simp] theorem State.setSzero_status (s : State) (z : Bool) : (s.setSzero z).status = { s.status with szero := z } := rfl
@[simp] theorem State.setSzero_rsN (s : State) (z : Bool) : (s.setSzero z).rsN = s.rsN := rfl
@[simp] theorem State.setSzero_rsNsym (s : State) (z : Bool) : (s.setSzero z).rsNsym = s.rsNsym := rfl
@[simp] theorem State.setSzero_rsL (s : State) (z : Bool) : (s.setSzero z).rsL = s.rsL := rfl
@[simp] theorem State.setSzero_rsErrcnt (s : State) (z : Bool) : (s.setSzero z).rsErrcnt = s.rsErrcnt := rfl
@[simp] theorem State.setSzero_ffSize (s : State) (z : Bool) : (s.setSzero z).ffSize = s.ffSize := rfl
@[simp] theorem State.setSzero_ffIdx (s : State) (z : Bool) : (s.setSzero z).ffIdx = s.ffIdx := rfl
@[simp] theorem State.setSzero_ffCnt (s : State) (z : Bool) : (s.setSzero z).ffCnt = s.ffCnt := rfl
@[simp] theorem State.setSzero_ffData (s : State) (z : Bool) : (s.setSzero z).ffData = s.ffData := rfl
@[simp] theorem State.setSzero_ffLast (s : State) (z : Bool) : (s.setSzero z).ffLast = s.ffLast := rfl
@[simp] theorem State.setSzero_syn (s : State) (z : Bool) : (s.setSzero z).syn = s.syn := rfl
@[simp] theorem State.setSzero_lambda (s : State) (z : Bool) : (s.setSzero z).lambda = s.lambda := rfl
@[simp] theorem State.setSzero_errloc (s : State) (z : Bool) : (s.setSzero z).errloc = s.errloc := rfl
@[simp] theorem State.setSzero_errval (s : State) (z : Bool) : (s.setSzero z).errval = s.errval := rfl
@[simp] theorem State.setSzero_mem (s : State) (z : Bool) : (s.setSzero z).mem = s.mem := rfl
@[simp] theorem State.setSzero_requests (s : State) (z : Bool) : (s.setSzero z).requests = s.requests := rfl
@[simp] theorem State.setSzero_response (s : State) (z : Bool) : (s.setSzero z).response = s.response := rfl
@[simp] theorem State.setSzero_resets (s : State) (z : Bool) : (s.setSzero z).resets = s.resets := rfl

/-! ### `setFfState` -/

@[simp] theorem State.setFfState_cfg (s : State) (f : FfState) : (s.setFfState f).cfg = s.cfg := rfl
@[simp] theorem State.setFfState_status (s : State) (f : FfState) : (s.setFfState f).status = { s.status with ffState := f } := rfl
@[simp] theorem State.setFfState_rsN (s : State) (f : FfState) : (s.setFfState f).rsN = s.rsN := rfl
@[simp] theorem State.setFfState_rsNsym (s : State) (f : FfState) : (s.setFfState f).rsNsym = s.rsNsym := rfl
@[simp] theorem State.setFfState_rsL (s : State) (f : FfState) : (s.setFfState f).rsL = s.rsL := rfl
@[simp] theorem State.setFfState_rsErrcnt (s : State) (f : FfState) : (s.setFfState f).rsErrcnt = s.rsErrcnt := rfl
@[simp] theorem State.setFfState_ffSize (s : State) (f : FfState) : (s.setFfState f).ffSize = s.ffSize := rfl
@[simp] theorem State.setFfState_ffIdx (s : State) (f : FfState) : (s.setFfState f).ffIdx = s.ffIdx := rfl
@[simp] theorem State.setFfState_ffCnt (s : State) (f : FfState) : (s.setFfState f).ffCnt = s.ffCnt := rfl
@[simp] theorem State.setFfState_ffData (s : State) (f : FfState) : (s.setFfState f).ffData = s.ffData := rfl
@[simp] theorem State.setFfState_ffLast (s : State) (f : FfState) : (s.setFfState f).ffLast = s.ffLast := rfl
@[simp] theorem State.setFfState_syn (s : State) (f : FfState) : (s.setFfState f).syn = s.syn := rfl
@[simp] theorem State.setFfState_lambda (s : State) (f : FfState) : (s.setFfState f).lambda = s.lambda := rfl
@[simp] theorem State.setFfState_errloc (s : State) (f : FfState) : (s.setFfState f).errloc = s.errloc := rfl
@[simp] theorem State.setFfState_errval (s : State) (f : FfState) : (s.setFfState f).errval = s.errval := rfl
@[simp] theorem State.setFfState_mem (s : State) (f : FfState) : (s.setFfState f).mem = s.mem := rfl
@[simp] theorem State.setFfState_requests (s : State) (f : FfState) : (s.setFfState f).requests = s.requests := rfl
@[simp] theorem State.setFfState_response (s : State) (f : FfState) : (s.setFfState f).response = s.response := rfl
@[simp] theorem State.setFfState_resets (s : State) (f : FfState) : (s.setFfState f).resets = s.resets := rfl

/-! ### `invalidateRs` -/

@[simp] theorem State.invalidateRs_cfg (s : State) : (s.invalidateRs).cfg = s.cfg := rfl
@[simp] theorem State.invalidateRs_status (s : State) : (s.invalidateRs).status = { s.status with stage := .none, szero := false } := rfl
@[simp] theorem State.invalidateRs_rsN (s : State) : (s.invalidateRs).rsN = s.rsN := rfl
@[simp] theorem State.invalidateRs_rsNsym (s : State) : (s.invalidateRs).rsNsym = s.rsNsym := rfl
@[simp] theorem State.invalidateRs_rsL (s : State) : (s.invalidateRs).rsL = s.rsL := rfl
@[simp] theorem State.invalidateRs_rsErrcnt (s : State) : (s.invalidateRs).rsErrcnt = s.rsErrcnt := rfl
@[simp] theorem State.invalidateRs_ffSize (s : State) : (s.invalidateRs).ffSize = s.ffSize := rfl
@[simp] theorem State.invalidateRs_ffIdx (s : State) : (s.invalidateRs).ffIdx = s.ffIdx := rfl
@[simp] theorem State.invalidateRs_ffCnt (s : State) : (s.invalidateRs).ffCnt = s.ffCnt := rfl
@[simp] theorem State.invalidateRs_ffData (s : State) : (s.invalidateRs).ffData = s.ffData := rfl
@[simp] theorem State.invalidateRs_ffLast (s : State) : (s.invalidateRs).ffLast = s.ffLast := rfl
@[simp] theorem State.invalidateRs_syn (s : State) : (s.invalidateRs).syn = s.syn := rfl
@[simp] theorem State.invalidateRs_lambda (s : State) : (s.invalidateRs).lambda = s.lambda := rfl
@[simp] theorem State.invalidateRs_errloc (s : State) : (s.invalidateRs).errloc = s.errloc := rfl
@[simp] theorem State.invalidateRs_errval (s : State) : (s.invalidateRs).errval = s.errval := rfl
@[simp] theorem State.invalidateRs_mem (s : State) : (s.invalidateRs).mem = s.mem := rfl
@[simp] theorem State.invalidateRs_requests (s : State) : (s.invalidateRs).requests = s.requests := rfl
@[simp] theorem State.invalidateRs_response (s : State) : (s.invalidateRs).response = s.response := rfl
@[simp] theorem State.invalidateRs_resets (s : State) : (s.invalidateRs).resets = s.resets := rfl

/-! ### `invalidateFf` -/

@[simp] theorem State.invalidateFf_cfg (s : State) : (s.invalidateFf).cfg = s.cfg := rfl
@[simp] theorem State.invalidateFf_status (s : State) : (s.invalidateFf).status = { s.status with ffState := .idle } := rfl
@[simp] theorem State.invalidateFf_rsN (s : State) : (s.invalidateFf).rsN = s.rsN := rfl
@[simp] theorem State.invalidateFf_rsNsym (s : State) : (s.invalidateFf).rsNsym = s.rsNsym := rfl
@[simp] theorem State.invalidateFf_rsL (s : State) : (s.invalidateFf).rsL = s.rsL := rfl
@[simp] theorem State.invalidateFf_rsErrcnt (s : State) : (s.invalidateFf).rsErrcnt = s.rsErrcnt := rfl
@[simp] theorem State.invalidateFf_ffSize (s : State) : (s.invalidateFf).ffSize = s.ffSize := rfl
@[simp] theorem State.invalidateFf_ffIdx (s : State) : (s.invalidateFf).ffIdx = s.ffIdx := rfl
@[simp] theorem State.invalidateFf_ffCnt (s : State) : (s.invalidateFf).ffCnt = s.ffCnt := rfl
@[simp] theorem State.invalidateFf_ffData (s : State) : (s.invalidateFf).ffData = s.ffData := rfl
@[simp] theorem State.invalidateFf_ffLast (s : State) : (s.invalidateFf).ffLast = s.ffLast := rfl
@[simp] theorem State.invalidateFf_syn (s : State) : (s.invalidateFf).syn = s.syn := rfl
@[simp] theorem State.invalidateFf_lambda (s : State) : (s.invalidateFf).lambda = s.lambda := rfl
@[simp] theorem State.invalidateFf_errloc (s : State) : (s.invalidateFf).errloc = s.errloc := rfl
@[simp] theorem State.invalidateFf_errval (s : State) : (s.invalidateFf).errval = s.errval := rfl
@[simp] theorem State.invalidateFf_mem (s : State) : (s.invalidateFf).mem = s.mem := rfl
@[simp] theorem State.invalidateFf_requests (s : State) : (s.invalidateFf).requests = s.requests := rfl
@[simp] theorem State.invalidateFf_response (s : State) : (s.invalidateFf).response = s.response := rfl
@[simp] theorem State.invalidateFf_resets (s : State) : (s.invalidateFf).resets = s.resets := rfl

/-! ### `poke` -/

@[simp] theorem State.poke_cfg (s : State) (a : Nat) (v : Byte) : (s.poke a v).cfg = s.cfg := rfl
@[simp] theorem State.poke_status (s : State) (a : Nat) (v : Byte) : (s.poke a v).status = s.status := rfl
@[simp] theorem State.poke_rsN (s : State) (a : Nat) (v : Byte) : (s.poke a v).rsN = s.rsN := rfl
@[simp] theorem State.poke_rsNsym (s : State) (a : Nat) (v : Byte) : (s.poke a v).rsNsym = s.rsNsym := rfl
@[simp] theorem State.poke_rsL (s : State) (a : Nat) (v : Byte) : (s.poke a v).rsL = s.rsL := rfl
@[simp] theorem State.poke_rsErrcnt (s : State) (a : Nat) (v : Byte) : (s.poke a v).rsErrcnt = s.rsErrcnt := rfl
@[simp] theorem State.poke_ffSize (s : State) (a : Nat) (v : Byte) : (s.poke a v).ffSize = s.ffSize := rfl
@[simp] theorem State.poke_ffIdx (s : State) (a : Nat) (v : Byte) : (s.poke a v).ffIdx = s.ffIdx := rfl
@[simp] theorem State.poke_ffCnt (s : State) (a : Nat) (v : Byte) : (s.poke a v).ffCnt = s.ffCnt := rfl
@[simp] theorem State.poke_ffData (s : State) (a : Nat) (v : Byte) : (s.poke a v).ffData = s.ffData := rfl
@[simp] theorem State.poke_ffLast (s : State) (a : Nat) (v : Byte) : (s.poke a v).ffLast = s.ffLast := rfl
@[simp] theorem State.poke_syn (s : State) (a : Nat) (v : Byte) : (s.poke a v).syn = s.syn := rfl
@[simp] theorem State.poke_lambda (s : State) (a : Nat) (v : Byte) : (s.poke a v).lambda = s.lambda := rfl
@[simp] theorem State.poke_errloc (s : State) (a : Nat) (v : Byte) : (s.poke a v).errloc = s.errloc := rfl
@[simp] theorem State.poke_errval (s : State) (a : Nat) (v : Byte) : (s.poke a v).errval = s.errval := rfl
@[simp] theorem State.poke_mem (s : State) (a : Nat) (v : Byte) : (s.poke a v).mem = Memory.write s.mem a v := rfl
@[simp] theorem State.poke_requests (s : State) (a : Nat) (v : Byte) : (s.poke a v).requests = s.requests := rfl
@[simp] theorem State.poke_response (s : State) (a : Nat) (v : Byte) : (s.poke a v).response = s.response := rfl
@[simp] theorem State.poke_resets (s : State) (a : Nat) (v : Byte) : (s.poke a v).resets = s.resets := rfl

/-! ### `setCw` -/

@[simp] theorem State.setCw_cfg (s : State) (i : Nat) (v : Byte) : (s.setCw i v).cfg = s.cfg := rfl
@[simp] theorem State.setCw_status (s : State) (i : Nat) (v : Byte) : (s.setCw i v).status = s.status := rfl
@[simp] theorem State.setCw_rsN (s : State) (i : Nat) (v : Byte) : (s.setCw i v).rsN = s.rsN := rfl
@[simp] theorem State.setCw_rsNsym (s : State) (i : Nat) (v : Byte) : (s.setCw i v).rsNsym = s.rsNsym := rfl
@[simp] theorem State.setCw_rsL (s : State) (i : Nat) (v : Byte) : (s.setCw i v).rsL = s.rsL := rfl
@[simp] theorem State.setCw_rsErrcnt (s : State) (i : Nat) (v : Byte) : (s.setCw i v).rsErrcnt = s.rsErrcnt := rfl
@[simp] theorem State.setCw_ffSize (s : State) (i : Nat) (v : Byte) : (s.setCw i v).ffSize = s.ffSize := rfl
@[simp] theorem State.setCw_ffIdx (s : State) (i : Nat) (v : Byte) : (s.setCw i v).ffIdx = s.ffIdx := rfl
@[simp] theorem State.setCw_ffCnt (s : State) (i : Nat) (v : Byte) : (s.setCw i v).ffCnt = s.ffCnt := rfl
@[simp] theorem State.setCw_ffData (s : State) (i : Nat) (v : Byte) : (s.setCw i v).ffData = s.ffData := rfl
@[simp] theorem State.setCw_ffLast (s : State) (i : Nat) (v : Byte) : (s.setCw i v).ffLast = s.ffLast := rfl
@[simp] theorem State.setCw_syn (s : State) (i : Nat) (v : Byte) : (s.setCw i v).syn = s.syn := rfl
@[simp] theorem State.setCw_lambda (s : State) (i : Nat) (v : Byte) : (s.setCw i v).lambda = s.lambda := rfl
@[simp] theorem State.setCw_errloc (s : State) (i : Nat) (v : Byte) : (s.setCw i v).errloc = s.errloc := rfl
@[simp] theorem State.setCw_errval (s : State) (i : Nat) (v : Byte) : (s.setCw i v).errval = s.errval := rfl
@[simp] theorem State.setCw_mem (s : State) (i : Nat) (v : Byte) : (s.setCw i v).mem = Memory.write s.mem (cwOffset i) v := rfl
@[simp] theorem State.setCw_requests (s : State) (i : Nat) (v : Byte) : (s.setCw i v).requests = s.requests := rfl
@[simp] theorem State.setCw_response (s : State) (i : Nat) (v : Byte) : (s.setCw i v).response = s.response := rfl
@[simp] theorem State.setCw_resets (s : State) (i : Nat) (v : Byte) : (s.setCw i v).resets = s.resets := rfl

/-! ### `setCell` -/

@[simp] theorem State.setCell_cfg (s : State) (y x : Nat) (v : BitVec 2) : (s.setCell y x v).cfg = s.cfg := rfl
@[simp] theorem State.setCell_status (s : State) (y x : Nat) (v : BitVec 2) : (s.setCell y x v).status = s.status := rfl
@[simp] theorem State.setCell_rsN (s : State) (y x : Nat) (v : BitVec 2) : (s.setCell y x v).rsN = s.rsN := rfl
@[simp] theorem State.setCell_rsNsym (s : State) (y x : Nat) (v : BitVec 2) : (s.setCell y x v).rsNsym = s.rsNsym := rfl
@[simp] theorem State.setCell_rsL (s : State) (y x : Nat) (v : BitVec 2) : (s.setCell y x v).rsL = s.rsL := rfl
@[simp] theorem State.setCell_rsErrcnt (s : State) (y x : Nat) (v : BitVec 2) : (s.setCell y x v).rsErrcnt = s.rsErrcnt := rfl
@[simp] theorem State.setCell_ffSize (s : State) (y x : Nat) (v : BitVec 2) : (s.setCell y x v).ffSize = s.ffSize := rfl
@[simp] theorem State.setCell_ffIdx (s : State) (y x : Nat) (v : BitVec 2) : (s.setCell y x v).ffIdx = s.ffIdx := rfl
@[simp] theorem State.setCell_ffCnt (s : State) (y x : Nat) (v : BitVec 2) : (s.setCell y x v).ffCnt = s.ffCnt := rfl
@[simp] theorem State.setCell_ffData (s : State) (y x : Nat) (v : BitVec 2) : (s.setCell y x v).ffData = s.ffData := rfl
@[simp] theorem State.setCell_ffLast (s : State) (y x : Nat) (v : BitVec 2) : (s.setCell y x v).ffLast = s.ffLast := rfl
@[simp] theorem State.setCell_syn (s : State) (y x : Nat) (v : BitVec 2) : (s.setCell y x v).syn = s.syn := rfl
@[simp] theorem State.setCell_lambda (s : State) (y x : Nat) (v : BitVec 2) : (s.setCell y x v).lambda = s.lambda := rfl
@[simp] theorem State.setCell_errloc (s : State) (y x : Nat) (v : BitVec 2) : (s.setCell y x v).errloc = s.errloc := rfl
@[simp] theorem State.setCell_errval (s : State) (y x : Nat) (v : BitVec 2) : (s.setCell y x v).errval = s.errval := rfl
@[simp] theorem State.setCell_mem (s : State) (y x : Nat) (v : BitVec 2) : (s.setCell y x v).mem = Memory.write s.mem (cellOffset y x) (v.setWidth 8) := rfl
@[simp] theorem State.setCell_requests (s : State) (y x : Nat) (v : BitVec 2) : (s.setCell y x v).requests = s.requests := rfl
@[simp] theorem State.setCell_response (s : State) (y x : Nat) (v : BitVec 2) : (s.setCell y x v).response = s.response := rfl
@[simp] theorem State.setCell_resets (s : State) (y x : Nat) (v : BitVec 2) : (s.setCell y x v).resets = s.resets := rfl

/-! ### `startCursor` -/

@[simp] theorem State.startCursor_cfg (s : State) : (s.startCursor).cfg = s.cfg := rfl
@[simp] theorem State.startCursor_status (s : State) : (s.startCursor).status = { s.status with ffState := .active } := rfl
@[simp] theorem State.startCursor_rsN (s : State) : (s.startCursor).rsN = s.rsN := rfl
@[simp] theorem State.startCursor_rsNsym (s : State) : (s.startCursor).rsNsym = s.rsNsym := rfl
@[simp] theorem State.startCursor_rsL (s : State) : (s.startCursor).rsL = s.rsL := rfl
@[simp] theorem State.startCursor_rsErrcnt (s : State) : (s.startCursor).rsErrcnt = s.rsErrcnt := rfl
@[simp] theorem State.startCursor_ffSize (s : State) : (s.startCursor).ffSize = s.ffSize := rfl
@[simp] theorem State.startCursor_ffIdx (s : State) : (s.startCursor).ffIdx = 0 := rfl
@[simp] theorem State.startCursor_ffCnt (s : State) : (s.startCursor).ffCnt = 0 := rfl
@[simp] theorem State.startCursor_ffData (s : State) : (s.startCursor).ffData = 0 := rfl
@[simp] theorem State.startCursor_ffLast (s : State) : (s.startCursor).ffLast = LastCell.zero := rfl
@[simp] theorem State.startCursor_syn (s : State) : (s.startCursor).syn = s.syn := rfl
@[simp] theorem State.startCursor_lambda (s : State) : (s.startCursor).lambda = s.lambda := rfl
@[simp] theorem State.startCursor_errloc (s : State) : (s.startCursor).errloc = s.errloc := rfl
@[simp] theorem State.startCursor_errval (s : State) : (s.startCursor).errval = s.errval := rfl
@[simp] theorem State.startCursor_mem (s : State) : (s.startCursor).mem = s.mem := rfl
@[simp] theorem State.startCursor_requests (s : State) : (s.startCursor).requests = s.requests := rfl
@[simp] theorem State.startCursor_response (s : State) : (s.startCursor).response = s.response := rfl
@[simp] theorem State.startCursor_resets (s : State) : (s.startCursor).resets = s.resets := rfl

/-! ### `softReset` -/

@[simp] theorem State.softReset_cfg (s : State) : (s.softReset).cfg = s.cfg := rfl
@[simp] theorem State.softReset_status (s : State) : (s.softReset).status = Status.reset := rfl
@[simp] theorem State.softReset_rsN (s : State) : (s.softReset).rsN = 0 := rfl
@[simp] theorem State.softReset_rsNsym (s : State) : (s.softReset).rsNsym = 0 := rfl
@[simp] theorem State.softReset_rsL (s : State) : (s.softReset).rsL = 0 := rfl
@[simp] theorem State.softReset_rsErrcnt (s : State) : (s.softReset).rsErrcnt = 0 := rfl
@[simp] theorem State.softReset_ffSize (s : State) : (s.softReset).ffSize = 0 := rfl
@[simp] theorem State.softReset_ffIdx (s : State) : (s.softReset).ffIdx = 0 := rfl
@[simp] theorem State.softReset_ffCnt (s : State) : (s.softReset).ffCnt = 0 := rfl
@[simp] theorem State.softReset_ffData (s : State) : (s.softReset).ffData = 0 := rfl
@[simp] theorem State.softReset_ffLast (s : State) : (s.softReset).ffLast = LastCell.zero := rfl
@[simp] theorem State.softReset_syn (s : State) : (s.softReset).syn = List.replicate s.cfg.nsymMax 0 := rfl
@[simp] theorem State.softReset_lambda (s : State) : (s.softReset).lambda = List.replicate (s.cfg.nsymMax + 1) 0 := rfl
@[simp] theorem State.softReset_errloc (s : State) : (s.softReset).errloc = List.replicate s.cfg.tMax 0 := rfl
@[simp] theorem State.softReset_errval (s : State) : (s.softReset).errval = List.replicate s.cfg.tMax 0 := rfl
@[simp] theorem State.softReset_mem (s : State) : (s.softReset).mem = s.mem := rfl
@[simp] theorem State.softReset_requests (s : State) : (s.softReset).requests = s.requests := rfl
@[simp] theorem State.softReset_response (s : State) : (s.softReset).response = s.response := rfl
@[simp] theorem State.softReset_resets (s : State) : (s.softReset).resets = s.resets := rfl

/-! ### `hardwareReset` -/

@[simp] theorem State.hardwareReset_cfg (s : State) : (s.hardwareReset).cfg = s.cfg := rfl
@[simp] theorem State.hardwareReset_status (s : State) : (s.hardwareReset).status = Status.reset := rfl
@[simp] theorem State.hardwareReset_rsN (s : State) : (s.hardwareReset).rsN = 0 := rfl
@[simp] theorem State.hardwareReset_rsNsym (s : State) : (s.hardwareReset).rsNsym = 0 := rfl
@[simp] theorem State.hardwareReset_rsL (s : State) : (s.hardwareReset).rsL = 0 := rfl
@[simp] theorem State.hardwareReset_rsErrcnt (s : State) : (s.hardwareReset).rsErrcnt = 0 := rfl
@[simp] theorem State.hardwareReset_ffSize (s : State) : (s.hardwareReset).ffSize = 0 := rfl
@[simp] theorem State.hardwareReset_ffIdx (s : State) : (s.hardwareReset).ffIdx = 0 := rfl
@[simp] theorem State.hardwareReset_ffCnt (s : State) : (s.hardwareReset).ffCnt = 0 := rfl
@[simp] theorem State.hardwareReset_ffData (s : State) : (s.hardwareReset).ffData = 0 := rfl
@[simp] theorem State.hardwareReset_ffLast (s : State) : (s.hardwareReset).ffLast = LastCell.zero := rfl
@[simp] theorem State.hardwareReset_syn (s : State) : (s.hardwareReset).syn = List.replicate s.cfg.nsymMax 0 := rfl
@[simp] theorem State.hardwareReset_lambda (s : State) : (s.hardwareReset).lambda = List.replicate (s.cfg.nsymMax + 1) 0 := rfl
@[simp] theorem State.hardwareReset_errloc (s : State) : (s.hardwareReset).errloc = List.replicate s.cfg.tMax 0 := rfl
@[simp] theorem State.hardwareReset_errval (s : State) : (s.hardwareReset).errval = List.replicate s.cfg.tMax 0 := rfl
@[simp] theorem State.hardwareReset_mem (s : State) : (s.hardwareReset).mem = [] := rfl
@[simp] theorem State.hardwareReset_requests (s : State) : (s.hardwareReset).requests = s.requests := rfl
@[simp] theorem State.hardwareReset_response (s : State) : (s.hardwareReset).response = none := rfl
@[simp] theorem State.hardwareReset_resets (s : State) : (s.hardwareReset).resets = s.resets + 1 := rfl

end Sys2Proof.Machine
end

