-- ==== Sys2Proof/Laws/Memory.lean ====
section
/-! SUPPORT. The memory laws: a read after a write, the canonical form that every operation keeps, and the same
laws for the locations `CW[i]` and `CELL[y][x]`. -/

namespace Sys2Proof.Machine

/-! ### Lists of cells -/

@[simp] theorem Memory.read_nil (a : Nat) : Memory.read [] a = none := rfl

theorem Memory.read_cons (p : Host.Cell) (m : Memory) (a : Nat) :
    Memory.read (p :: m) a = if p.1 = a then some p.2 else Memory.read m a := by
  by_cases h : p.1 = a <;> simp [Memory.read, h]

@[simp] theorem Memory.read_write_same (m : Memory) (a : Nat) (v : Byte) :
    Memory.read (Memory.write m a v) a = some v := by
  induction m with
  | nil => simp [Memory.write, Memory.read_cons]
  | cons p m ih =>
    obtain ⟨b, w⟩ := p
    unfold Memory.write
    split_ifs with h1 h2
    · simp [Memory.read_cons]
    · simp [Memory.read_cons]
    · rw [Memory.read_cons, if_neg (fun h => h2 h.symm), ih]

theorem Memory.read_write_other (m : Memory) {a b : Nat} (v : Byte) (h : b ≠ a) :
    Memory.read (Memory.write m a v) b = Memory.read m b := by
  induction m with
  | nil => simp [Memory.write, Memory.read_cons, h.symm]
  | cons p m ih =>
    obtain ⟨c, w⟩ := p
    unfold Memory.write
    split_ifs with h1 h2
    · rw [Memory.read_cons, if_neg h.symm]
    · subst h2; rw [Memory.read_cons, Memory.read_cons, if_neg h.symm, if_neg h.symm]
    · rw [Memory.read_cons, Memory.read_cons, ih]

theorem Memory.mem_write {m : Memory} {a : Nat} {v : Byte} {p : Host.Cell} (h : p ∈ Memory.write m a v) :
    p = (a, v) ∨ p ∈ m := by
  induction m with
  | nil => simpa [Memory.write] using h
  | cons q m ih =>
    obtain ⟨b, w⟩ := q
    unfold Memory.write at h
    split_ifs at h with h1 h2
    · simpa using h
    · rcases List.mem_cons.mp h with h | h
      · exact .inl h
      · exact .inr (List.mem_cons_of_mem _ h)
    · rcases List.mem_cons.mp h with h | h
      · exact .inr (by simp [h])
      · rcases ih h with h | h
        · exact .inl h
        · exact .inr (List.mem_cons_of_mem _ h)

@[simp] theorem Memory.wf_nil : Memory.wf [] := List.Pairwise.nil

theorem Memory.wf_write {m : Memory} (h : Memory.wf m) (a : Nat) (v : Byte) : Memory.wf (Memory.write m a v) := by
  induction m with
  | nil => simp [Memory.write, Memory.wf]
  | cons q m ih =>
    obtain ⟨b, w⟩ := q
    obtain ⟨hq, hm⟩ := List.pairwise_cons.mp h
    unfold Memory.write
    split_ifs with h1 h2
    · refine List.pairwise_cons.mpr ⟨fun p hp => ?_, h⟩
      rcases List.mem_cons.mp hp with rfl | hp
      · exact h1
      · exact h1.trans (hq p hp)
    · subst h2; exact List.pairwise_cons.mpr ⟨hq, hm⟩
    · refine List.pairwise_cons.mpr ⟨fun p hp => ?_, ih hm⟩
      rcases Memory.mem_write hp with rfl | hp
      · exact lt_of_le_of_ne (not_lt.mp h1) (fun e => h2 e.symm)
      · exact hq p hp

theorem Memory.read_eq_none_of_lt {m : Memory} {a : Nat} (h : ∀ p ∈ m, a < p.1) : Memory.read m a = none := by
  induction m with
  | nil => rfl
  | cons p m ih =>
    rw [Memory.read_cons, if_neg (h p (by simp)).ne', ih fun q hq => h q (List.mem_cons_of_mem _ hq)]

/-- Equal memories are equal data. -/
theorem Memory.ext {m n : Memory} (hm : Memory.wf m) (hn : Memory.wf n)
    (h : ∀ a, Memory.read m a = Memory.read n a) : m = n := by
  induction m generalizing n with
  | nil =>
    cases n with
    | nil => rfl
    | cons q n => simpa [Memory.read_cons] using h q.1
  | cons p m ih =>
    obtain ⟨hp, hm'⟩ := List.pairwise_cons.mp hm
    cases n with
    | nil => simpa [Memory.read_cons] using h p.1
    | cons q n =>
      obtain ⟨hq, hn'⟩ := List.pairwise_cons.mp hn
      have hle : ∀ {p q : Host.Cell} {m n : Memory}, (∀ r ∈ n, q.1 < r.1) →
          (∀ a, Memory.read (p :: m) a = Memory.read (q :: n) a) → ¬ p.1 < q.1 := by
        intro p q m n hq h hlt
        have hn : Memory.read (q :: n) p.1 = none :=
          Memory.read_eq_none_of_lt fun r hr => by
            rcases List.mem_cons.mp hr with rfl | hr
            · exact hlt
            · exact hlt.trans (hq r hr)
        simpa [Memory.read_cons, hn] using h p.1
      have e : p.1 = q.1 := le_antisymm (not_lt.mp (hle hp fun a => (h a).symm)) (not_lt.mp (hle hq h))
      have ev : p.2 = q.2 := by simpa [Memory.read_cons, e] using h p.1
      have epq : p = q := Prod.ext e ev
      subst epq
      refine congrArg (p :: ·) (ih hm' hn' fun a => ?_)
      by_cases ha : p.1 = a
      · subst ha
        rw [Memory.read_eq_none_of_lt hp, Memory.read_eq_none_of_lt hq]
      · simpa [Memory.read_cons, ha] using h a

/-- The memory right after reset has the canonical form. -/
theorem State.reset_mem_wf : Memory.wf State.reset.mem := Memory.wf_nil

/-! ### Bytes of a state -/

@[simp] theorem State.peek_poke_same (s : State) (a : Nat) (v : Byte) : (s.poke a v).peek a = v := by
  simp [State.peek]

theorem State.peek_poke_other (s : State) {a b : Nat} (v : Byte) (h : b ≠ a) : (s.poke a v).peek b = s.peek b := by
  simp [State.peek, Memory.read_write_other _ v h]

/-- What a byte reads as depends on the memory and the reset count only. -/
theorem State.peek_congr {s t : State} (hm : t.mem = s.mem) (hr : t.resets = s.resets) (a : Nat) :
    t.peek a = s.peek a := by simp [State.peek, hm, hr]

theorem keepsMemory_of_eq {s t : State} (hm : t.mem = s.mem) (hr : t.resets = s.resets) : keepsMemory s t :=
  State.peek_congr hm hr

theorem cwOffset_inj {i j : Nat} (h : cwOffset i = cwOffset j) : i = j := by simp only [cwOffset] at h; omega

theorem cellOffset_inj {y x y' x' : Nat} (hx : x < 256) (hx' : x' < 256) (h : cellOffset y x = cellOffset y' x') :
    y = y' ∧ x = x' := by simp only [cellOffset] at h; omega

theorem cwOffset_ne_cellOffset {i : Nat} (hi : i < 256) (y x : Nat) : cwOffset i ≠ cellOffset y x := by
  simp only [cwOffset, cellOffset]; omega

@[simp] theorem State.cw_setCw_same (s : State) (i : Nat) (v : Byte) : (s.setCw i v).cw i = v := by
  simp [State.cw, State.setCw]

theorem State.cw_setCw_other (s : State) {i j : Nat} (v : Byte) (h : j ≠ i) : (s.setCw i v).cw j = s.cw j :=
  State.peek_poke_other s v fun e => h (cwOffset_inj e)

theorem State.cell_setCw (s : State) {i : Nat} (hi : i < 256) (v : Byte) (y x : Nat) :
    (s.setCw i v).cell y x = s.cell y x := by
  simp only [State.cell, State.setCw, State.peek_poke_other s v (cwOffset_ne_cellOffset hi y x).symm]

theorem State.cw_setCell (s : State) {i : Nat} (hi : i < 256) (y x : Nat) (v : BitVec 2) :
    (s.setCell y x v).cw i = s.cw i :=
  State.peek_poke_other s _ (cwOffset_ne_cellOffset hi y x)

@[simp] theorem State.cell_setCell_same (s : State) (y x : Nat) (v : BitVec 2) : (s.setCell y x v).cell y x = v := by
  simp only [State.cell, State.setCell, State.peek_poke_same]
  rw [BitVec.setWidth_setWidth_of_le v (by decide)]; simp

theorem State.cell_setCell_other (s : State) {y x y' x' : Nat} (v : BitVec 2) (hx : x < 256) (hx' : x' < 256)
    (h : ¬ (y' = y ∧ x' = x)) : (s.setCell y x v).cell y' x' = s.cell y' x' := by
  simp only [State.cell, State.setCell]
  rw [State.peek_poke_other s _ fun e => h (cellOffset_inj hx' hx e)]

/-! ### Runs of `CW` writes -/

/-- A run of `CW` writes changes the memory and nothing else. -/
theorem State.setBuffer_eq (s : State) (i : Nat) (bs : List Byte) :
    s.setBuffer i bs = { s with mem := (s.setBuffer i bs).mem } := by
  induction bs generalizing s i with
  | nil => rfl
  | cons b bs ih => simp only [State.setBuffer]; rw [ih]; rfl

/-- A run of `CW` writes leaves every byte outside the run as it was. -/
theorem State.peek_setBuffer_other (s : State) (i : Nat) (bs : List Byte) {a : Nat}
    (h : ∀ k, k < bs.length → a ≠ cwOffset (i + k)) : (s.setBuffer i bs).peek a = s.peek a := by
  induction bs generalizing s i with
  | nil => rfl
  | cons b bs ih =>
    simp only [State.setBuffer]
    rw [ih]
    · exact State.peek_poke_other s b (h 0 (by simp))
    · intro k hk
      have := h (k + 1) (by simpa using hk)
      rwa [Nat.add_assoc, Nat.add_comm 1 k]

/-- A run of `CW` writes leaves its bytes in the buffer. -/
theorem State.cw_setBuffer (s : State) (i : Nat) (bs : List Byte) {k : Nat} (hk : k < bs.length) :
    (s.setBuffer i bs).cw (i + k) = bs[k] := by
  induction bs generalizing s i k with
  | nil => simp at hk
  | cons b bs ih =>
    simp only [State.setBuffer]
    cases k with
    | zero =>
      have : ((s.setCw i b).setBuffer (i + 1) bs).peek (cwOffset i) = (s.setCw i b).peek (cwOffset i) :=
        State.peek_setBuffer_other _ _ _ fun k _ e => by have := cwOffset_inj e; omega
      exact this.trans (State.cw_setCw_same s i b)
    | succ k =>
      have := ih (s.setCw i b) (i + 1) (k := k) (by simpa using hk)
      simpa [Nat.add_assoc, Nat.add_comm 1 k] using this

theorem State.setBuffer_mem_wf {s : State} (h : Memory.wf s.mem) (i : Nat) (bs : List Byte) :
    Memory.wf (s.setBuffer i bs).mem := by
  induction bs generalizing s i with
  | nil => exact h
  | cons b bs ih => exact ih (s := s.setCw i b) (Memory.wf_write h _ _) (i + 1)

end Sys2Proof.Machine
end

