-- ==== Sys2Proof/Laws/FrameFiller.lean ====
section
/-! SUPPORT. What `seek`, `take` and the loops built from them can do, once each. -/

namespace Sys2Proof.Machine

/-- The loop of `seek` stops at the first data-bearing candidate, or after `fuel` candidates without one. -/
theorem seekFrom_spec (s : State) (fuel idx : Nat) :
    idx ≤ s.seekFrom fuel idx ∧ s.seekFrom fuel idx ≤ idx + fuel ∧
    (∀ k, idx ≤ k → k < s.seekFrom fuel idx → s.dataBearing k = false) ∧
    (s.seekFrom fuel idx < idx + fuel → s.dataBearing (s.seekFrom fuel idx) = true) := by
  induction fuel generalizing idx with
  | zero => exact ⟨le_refl _, le_refl _, fun k h1 h2 => absurd h2 (not_lt.mpr h1), fun h => absurd h (lt_irrefl _)⟩
  | succ fuel ih =>
    unfold State.seekFrom
    by_cases h : s.dataBearing idx = true
    · rw [if_pos h]
      exact ⟨le_refl _, by omega, fun k h1 h2 => absurd h2 (not_lt.mpr h1), fun _ => h⟩
    · rw [if_neg h]
      obtain ⟨h1, h2, h3, h4⟩ := ih (idx + 1)
      refine ⟨by omega, by omega, fun k hk hlt => ?_, fun hlt => h4 (by omega)⟩
      rcases Nat.eq_or_lt_of_le hk with rfl | hk
      · simpa using h
      · exact h3 k hk hlt

/-- `seek` moves the cursor and nothing else. -/
theorem seek_frame (s : State) : s.seek.1 = { s with ffIdx := s.seek.1.ffIdx } := rfl

/-- `take` changes `FF_CNT`, `FF_LAST` and `FF_IDX` and nothing else. -/
theorem takeBit_frame (s : State) :
    s.takeBit.2 = { s with ffIdx := s.takeBit.2.ffIdx, ffCnt := s.takeBit.2.ffCnt, ffLast := s.takeBit.2.ffLast } := rfl

@[simp] theorem takeBits_zero (s : State) (temp : Byte) : s.takeBits temp 0 = (s, some temp) := rfl

theorem takeBits_found {s : State} (h : s.seek.2 = true) (temp : Byte) (k : Nat) :
    s.takeBits temp (k + 1) = s.seek.1.takeBit.2.takeBits (shiftIn temp s.seek.1.takeBit.1) k := by
  simp [State.takeBits, h]

theorem takeBits_exhausted {s : State} (h : s.seek.2 = false) (temp : Byte) (k : Nat) :
    s.takeBits temp (k + 1) = (s.seek.1, none) := by
  simp [State.takeBits, h]

/-- Taking bits changes `FF_CNT`, `FF_LAST` and `FF_IDX` and nothing else. -/
theorem takeBits_frame (s : State) (temp : Byte) (k : Nat) :
    (s.takeBits temp k).1 = { s with ffIdx := (s.takeBits temp k).1.ffIdx
                                     ffCnt := (s.takeBits temp k).1.ffCnt
                                     ffLast := (s.takeBits temp k).1.ffLast } := by
  induction k generalizing s temp with
  | zero => rfl
  | succ k ih =>
    cases h : s.seek.2
    · rw [takeBits_exhausted h]; rfl
    · rw [takeBits_found h]; rw [ih]; rfl

theorem takeBits_mem (s : State) (temp : Byte) (k : Nat) : (s.takeBits temp k).1.mem = s.mem := by
  rw [takeBits_frame]

theorem takeBits_resets (s : State) (temp : Byte) (k : Nat) : (s.takeBits temp k).1.resets = s.resets := by
  rw [takeBits_frame]

/-- The codeword loop changes `FF_CNT`, `FF_LAST`, `FF_IDX` and the memory and nothing else. -/
theorem fillBytes_frame (s : State) (i k : Nat) :
    (s.fillBytes i k).1 = { s with ffIdx := (s.fillBytes i k).1.ffIdx
                                   ffCnt := (s.fillBytes i k).1.ffCnt
                                   ffLast := (s.fillBytes i k).1.ffLast
                                   mem := (s.fillBytes i k).1.mem } := by
  induction k generalizing s i with
  | zero => rfl
  | succ k ih =>
    have hf := takeBits_frame s 0 8
    unfold State.fillBytes
    match h : s.takeBits 0 8 with
    | (s', some b) => rw [h] at hf; simp only at hf ⊢; rw [ih]; rw [hf]; rfl
    | (s', none) => rw [h] at hf; simp only at hf ⊢; rw [hf]

/-- The codeword loop writes no byte outside `CW[i..i+k-1]`. -/
theorem peek_fillBytes_other (s : State) (i k : Nat) {a : Nat} (h : ∀ j, j < k → a ≠ cwOffset (i + j)) :
    (s.fillBytes i k).1.peek a = s.peek a := by
  induction k generalizing s i with
  | zero => rfl
  | succ k ih =>
    have hm := takeBits_mem s 0 8
    have hr := takeBits_resets s 0 8
    unfold State.fillBytes
    match h8 : s.takeBits 0 8 with
    | (s', some b) =>
      rw [h8] at hm hr
      simp only at hm hr ⊢
      rw [ih]
      · exact (State.peek_poke_other s' b (h 0 (by omega))).trans (State.peek_congr hm hr a)
      · intro j hj
        have := h (j + 1) (by omega)
        rwa [Nat.add_assoc, Nat.add_comm 1 j]
    | (s', none) =>
      rw [h8] at hm hr
      exact State.peek_congr hm hr a

theorem fillBytes_mem_wf {s : State} (hwf : Memory.wf s.mem) (i k : Nat) : Memory.wf (s.fillBytes i k).1.mem := by
  induction k generalizing s i with
  | zero => exact hwf
  | succ k ih =>
    have hm := takeBits_mem s 0 8
    unfold State.fillBytes
    match h8 : s.takeBits 0 8 with
    | (s', some b) =>
      rw [h8] at hm
      simp only at hm ⊢
      exact ih (Memory.wf_write (by rw [hm]; exact hwf) _ _) _
    | (s', none) => rw [h8] at hm; simp only at hm ⊢; rw [hm]; exact hwf

end Sys2Proof.Machine
end

