-- ==== Sys2Proof/Laws/Gf256.lean ====
section
/-! SUPPORT. First laws of the field operations: what each does on the empty case and on one more turn. -/

namespace Sys2Proof.Machine

@[simp] theorem gfPow_zero (poly : BitVec 9) (a : Byte) : gfPow poly a 0 = 1 := rfl

theorem gfPow_succ (poly : BitVec 9) (a : Byte) (n : Nat) : gfPow poly a (n + 1) = gfMul poly (gfPow poly a n) a := rfl

@[simp] theorem polyEval_nil (poly : BitVec 9) (v : Byte) : polyEval poly [] v = 0 := rfl

theorem polyEval_cons (poly : BitVec 9) (c : Byte) (p : List Byte) (v : Byte) :
    polyEval poly (c :: p) v = gfMul poly (polyEval poly p v) v ^^^ c := rfl

/-- The shift-and-add loop adds a contribution to what it starts from. -/
theorem gfMulLoop_start (poly : BitVec 9) (k : Nat) (aa : BitVec 9) (bb r : Byte) :
    gfMulLoop poly k aa bb r = r ^^^ gfMulLoop poly k aa bb 0 := by
  induction k generalizing aa bb r with
  | zero => simp [gfMulLoop]
  | succ k ih =>
    simp only [gfMulLoop]
    by_cases h : bb.getLsbD 0 = true
    · simp only [h, if_true]; rw [ih _ _ (r ^^^ _), ih _ _ (0 ^^^ _)]; simp [BitVec.xor_assoc]
    · simp only [h, if_false, Bool.false_eq_true]; rw [ih]

theorem gfMulLoop_zero_right (poly : BitVec 9) (k : Nat) (aa : BitVec 9) (r : Byte) :
    gfMulLoop poly k aa 0 r = r := by
  induction k generalizing aa r with
  | zero => rfl
  | succ k ih => simp only [gfMulLoop]; simpa using ih _ _

/-- `gf_mul(a, 0) = 0` (`40_gf256.md` R112). -/
@[simp] theorem gfMul_zero (poly : BitVec 9) (a : Byte) : gfMul poly a 0 = 0 := gfMulLoop_zero_right poly 8 _ 0

theorem gfMulLoop_zero_left (poly : BitVec 9) (k : Nat) (bb r : Byte) : gfMulLoop poly k 0 bb r = r := by
  induction k generalizing bb r with
  | zero => rfl
  | succ k ih => simp only [gfMulLoop]; simpa using ih _ _

/-- `gf_mul(0, a) = 0` (`40_gf256.md` R112). -/
@[simp] theorem zero_gfMul (poly : BitVec 9) (a : Byte) : gfMul poly 0 a = 0 := gfMulLoop_zero_left poly 8 a 0

theorem keepOdd_length (odd : Bool) (p : List Byte) : (keepOdd odd p).length = p.length := by
  induction p generalizing odd with
  | nil => rfl
  | cons c p ih => simp [keepOdd, ih]

theorem derivative_length (p : List Byte) : (derivative p).length = p.length - 1 := by
  simp [derivative, keepOdd_length]

theorem keepOdd_getD (odd : Bool) (p : List Byte) (i : Nat) :
    (keepOdd odd p).getD i 0 = if (odd ^^ decide (i % 2 = 1)) then p.getD i 0 else 0 := by
  induction p generalizing odd i with
  | nil => simp [keepOdd]
  | cons c p ih =>
    cases i with
    | zero => simp [keepOdd]
    | succ i =>
      have h : (!odd ^^ decide (i % 2 = 1)) = (odd ^^ decide ((i + 1) % 2 = 1)) := by
        rcases Nat.mod_two_eq_zero_or_one i with h | h <;> cases odd <;> simp [h, Nat.add_mod]
      simp only [keepOdd, List.getD_cons_succ, ih, h]

end Sys2Proof.Machine
end

