-- ==== Sys2Proof/Laws/PerInstr.lean ====
section
/-! SUPPORT. Families stated per command. `EncodeFields`: the fields of a command's word are the ones of
`30_encoding.md` R91 and R93. -/

namespace Sys2Proof.Laws

/-- The word of a command holds its `OPC`, its `ARG` and a zero `RSV`. -/
def EncodeFields.Statement (i : Instr) : Prop :=
  opcField (encode i) = opcOf i ∧ argField (encode i) = argOf i ∧ rsvField (encode i) = 0

/-- The three fields of the word, for every command at once. -/
theorem encodeFields_all (i : Instr) : EncodeFields.Statement i := by
  refine ⟨?_, ?_, ?_⟩
  · ext k hk
    simp [opcField, encode, BitVec.getElem_extractLsb', hk, show k < 32 by omega]
  · ext k hk
    simp [argField, encode, BitVec.getElem_extractLsb', show 8 + k < 32 by omega]
    rw [← BitVec.getLsbD_eq_getElem]
  · ext k hk
    simp only [rsvField, encode, BitVec.getElem_extractLsb', BitVec.getLsbD_or, BitVec.getLsbD_shiftLeft,
      BitVec.getLsbD_setWidth]
    rw [BitVec.getLsbD_of_ge (argOf i) _ (by omega), BitVec.getLsbD_of_ge (opcOf i) _ (by omega)]
    simp

theorem EncodeFields.nop : EncodeFields.Statement .nop := encodeFields_all _
theorem EncodeFields.srst : EncodeFields.Statement .srst := encodeFields_all _
theorem EncodeFields.rsSyn : EncodeFields.Statement .rsSyn := encodeFields_all _
theorem EncodeFields.rsKes : EncodeFields.Statement .rsKes := encodeFields_all _
theorem EncodeFields.rsChn : EncodeFields.Statement .rsChn := encodeFields_all _
theorem EncodeFields.rsFny : EncodeFields.Statement .rsFny := encodeFields_all _
theorem EncodeFields.rsApl : EncodeFields.Statement .rsApl := encodeFields_all _
theorem EncodeFields.rsDec : EncodeFields.Statement .rsDec := encodeFields_all _
theorem EncodeFields.ffStart : EncodeFields.Statement .ffStart := encodeFields_all _
theorem EncodeFields.ffGet (n : BitVec 8) : EncodeFields.Statement (.ffGet n) := encodeFields_all _
theorem EncodeFields.ffFill : EncodeFields.Statement .ffFill := encodeFields_all _

end Sys2Proof.Laws
end

