-- ==== Sys2Proof/Laws/Port.lean ====
section
/-! SUPPORT. What a step and a transaction can do: one lemma per case, cited instead of unfolding. -/

namespace Sys2Proof.Machine

/-- With no move pending a step changes nothing. -/
theorem step_nil {s : State} (h : s.requests = []) : step s = .next s := by simp [step, h]

/-- A step serves the oldest pending move. -/
theorem step_cons {s : State} {q : Request} {rest : List Request} (h : s.requests = q :: rest) :
    step s = serve q { s with requests := rest } := by simp [step, h]

theorem locate_cmd (c : Config) : locate c cmdOffset = some .cmd := rfl

/-- A command word of a legal command is executed. -/
theorem issue_ok {w : Word} {i : Instr} (h : decode w = .ok i) (s : State) : issue w s = exec i s := by
  simp [issue, h]

/-- An illegal word ends `ERR_CMD` and does nothing else (`30_encoding.md` R95). -/
theorem issue_error {w : Word} {e : Illegal} (h : decode w = .error e) (s : State) :
    issue w s = .next (s.done .errCmd) := by simp [issue, h]

/-- A write to `CMD` issues the word. -/
theorem busWrite_cmd (w : Word) (s : State) : busWrite cmdOffset w s = issue w (s.respond .completed) := by
  simp [busWrite, locate_cmd]

/-- A read answers the location's value or a bus error, and changes the answer only. -/
theorem busRead_cases (off : Offset) (s : State) :
    (∃ l, locate s.cfg off = some l ∧ busRead off s = { s with response := some (.value (s.valueAt l)) }) ∨
    (locate s.cfg off = none ∧ busRead off s = { s with response := some (.busError off) }) := by
  unfold busRead
  cases h : locate s.cfg off with
  | none => exact .inr ⟨rfl, rfl⟩
  | some l => exact .inl ⟨l, rfl, rfl⟩

/-- A write issues a command, stores a field, or ends in a bus error. -/
theorem busWrite_cases (off : Offset) (v : Word) (s : State) :
    (locate s.cfg off = some .cmd ∧ busWrite off v s = issue v { s with response := some .completed }) ∨
    (∃ l, locate s.cfg off = some l ∧ l ≠ .cmd ∧ writable l = true ∧
      busWrite off v s = .next { s.storeAt l v with response := some .completed }) ∨
    ((∀ l, locate s.cfg off = some l → writable l = false) ∧
      busWrite off v s = .next { s with response := some (.busError off) }) := by
  unfold busWrite
  cases h : locate s.cfg off with
  | none => exact .inr (.inr ⟨by simp, rfl⟩)
  | some l =>
    by_cases hc : l = .cmd
    · exact .inl ⟨by simp [hc], by simp [hc]; rfl⟩
    · by_cases hw : writable l = true
      · exact .inr (.inl ⟨l, rfl, hc, hw, by simp [hc, hw]; rfl⟩)
      · exact .inr (.inr ⟨by simp [hw], by simp [hc, hw]; rfl⟩)

/-- A store touches no register but its own, `STATUS` and the memory. -/
theorem storeAt_frame (s : State) (l : Loc) (v : Word) :
    s.storeAt l v = { s with rsN := (s.storeAt l v).rsN, rsNsym := (s.storeAt l v).rsNsym,
                             ffSize := (s.storeAt l v).ffSize, mem := (s.storeAt l v).mem,
                             status := (s.storeAt l v).status } := by
  cases l <;> rfl

/-- A store never changes `CODE` (`10_state.md` R23). -/
theorem storeAt_code (s : State) (l : Loc) (v : Word) : (s.storeAt l v).status.code = s.status.code := by
  cases l <;> rfl

/-- Every command answers a next state. -/
theorem exec_next (i : Instr) (s : State) : ∃ t, exec i s = .next t := by cases i <;> exact ⟨_, rfl⟩

end Sys2Proof.Machine
end

