-- ==== Sys2Proof/Laws/ReedSolomon.lean ====
section
/-! SUPPORT. What each Reed-Solomon stage can do, one case lemma per stage, and the chaining of stages. -/

namespace Sys2Proof.Machine

@[simp] theorem conclude_eq (s : State) (c : Code) : conclude (s, c) = s.done c := rfl

theorem andThen_ok {r : State × Code} (h : r.2 = .ok) (f : State → State × Code) : andThen r f = f r.1 := by
  simp [andThen, h]

theorem andThen_stop {r : State × Code} (h : r.2 ≠ .ok) (f : State → State × Code) : andThen r f = r := by
  simp [andThen, h]

@[simp] theorem syndromes_length (c : Config) (w : List Byte) (k : Nat) : (syndromes c w k).length = k := by
  simp [syndromes]

theorem syndromes_getD (c : Config) (w : List Byte) {k j : Nat} (h : j < k) :
    (syndromes c w k).getD j 0 = syndrome c w j := by simp [syndromes, List.getD, h]

theorem allZero_iff (l : List Byte) : allZero l = true ↔ ∀ b ∈ l, b = 0 := by simp [allZero]

/-- A codeword is a word all of whose syndromes are zero (`41_rs_commands.md` R144). -/
theorem isCodeword_iff (c : Config) (w : List Byte) (k : Nat) :
    isCodeword c w k = true ↔ ∀ j, j < k → syndrome c w j = 0 := by
  simp [isCodeword, allZero_iff, syndromes]

/-- `RS_SYN`'s two cases. -/
theorem performSyn_cases (s : State) :
    (s.cfgRsOk = true ∧ performSyn s =
      ({ s with syn := syndromes s.cfg s.buffer s.nsym ++ List.replicate (s.cfg.nsymMax - s.nsym) 0
                status := { s.status with stage := .syn, szero := isCodeword s.cfg s.buffer s.nsym } }, .ok)) ∨
    (s.cfgRsOk = false ∧ performSyn s = (s, .errCfg)) := by
  unfold performSyn
  cases h : s.cfgRsOk
  · exact .inr ⟨rfl, rfl⟩
  · exact .inl ⟨rfl, rfl⟩

/-- `RS_KES`'s three cases. -/
theorem performKes_cases (s : State) :
    (s.status.stage ≠ .syn ∧ performKes s = (s, .errSeq)) ∨
    (s.status.stage = .syn ∧ tOf s.nsym < (solveKey s.cfg s.syn s.nsym).len ∧ performKes s =
      ({ s with lambda := (solveKey s.cfg s.syn s.nsym).conn
                rsL := BitVec.ofNat 8 (solveKey s.cfg s.syn s.nsym).len }, .errUncorr)) ∨
    (s.status.stage = .syn ∧ (solveKey s.cfg s.syn s.nsym).len ≤ tOf s.nsym ∧ performKes s =
      ({ s with lambda := (solveKey s.cfg s.syn s.nsym).conn
                rsL := BitVec.ofNat 8 (solveKey s.cfg s.syn s.nsym).len
                status := { s.status with stage := .kes } }, .ok)) := by
  unfold performKes
  by_cases h : s.status.stage = .syn
  · by_cases hl : tOf s.nsym < (solveKey s.cfg s.syn s.nsym).len
    · exact .inr (.inl ⟨h, hl, by simp [h, hl]⟩)
    · exact .inr (.inr ⟨h, not_lt.mp hl, by simp [h, hl]; rfl⟩)
  · exact .inl ⟨h, by simp [h]⟩

/-- `RS_CHN`'s three cases. -/
theorem performChn_cases (s : State) :
    (s.status.stage ≠ .kes ∧ performChn s = (s, .errSeq)) ∨
    (s.status.stage = .kes ∧ (rootPositions s.cfg s.lambda s.n).length ≠ s.rsL.toNat ∧ performChn s =
      ({ s with errloc := padded s.cfg.tMax ((rootPositions s.cfg s.lambda s.n).map (BitVec.ofNat 8))
                rsErrcnt := BitVec.ofNat 8 (rootPositions s.cfg s.lambda s.n).length }, .errUncorr)) ∨
    (s.status.stage = .kes ∧ (rootPositions s.cfg s.lambda s.n).length = s.rsL.toNat ∧ performChn s =
      ({ s with errloc := padded s.cfg.tMax ((rootPositions s.cfg s.lambda s.n).map (BitVec.ofNat 8))
                rsErrcnt := BitVec.ofNat 8 (rootPositions s.cfg s.lambda s.n).length
                status := { s.status with stage := .chn } }, .ok)) := by
  unfold performChn
  by_cases h : s.status.stage = .kes
  · by_cases hl : (rootPositions s.cfg s.lambda s.n).length = s.rsL.toNat
    · exact .inr (.inr ⟨h, hl, by simp [h, hl]; rfl⟩)
    · exact .inr (.inl ⟨h, hl, by simp [h, hl]⟩)
  · exact .inl ⟨h, by simp [h]⟩

/-- `RS_FNY`'s two cases: it changes `ERRVAL` and `STAGE`, or answers `ERR_SEQ`. -/
theorem performFny_cases (s : State) :
    (s.status.stage ≠ .chn ∧ performFny s = (s, .errSeq)) ∨
    (s.status.stage = .chn ∧ performFny s =
      ({ s with errval := (performFny s).1.errval, status := { s.status with stage := .fny } }, .ok)) := by
  unfold performFny
  by_cases h : s.status.stage = .chn
  · exact .inr ⟨h, by simp [h]; rfl⟩
  · exact .inl ⟨h, by simp [h]⟩

/-- `RS_APL`'s three cases. -/
theorem performApl_cases (s : State) :
    (s.status.stage ≠ .fny ∧ performApl s = (s, .errSeq)) ∨
    (s.status.stage = .fny ∧ isCodeword s.cfg s.candidate s.nsym = false ∧ performApl s = (s, .errUncorr)) ∨
    (s.status.stage = .fny ∧ isCodeword s.cfg s.candidate s.nsym = true ∧ performApl s =
      ((s.setBuffer 0 s.candidate).setStage .apl, .ok)) := by
  unfold performApl
  by_cases h : s.status.stage = .fny
  · cases hc : isCodeword s.cfg s.candidate s.nsym
    · exact .inr (.inl ⟨h, rfl, by simp [h]⟩)
    · exact .inr (.inr ⟨h, rfl, by simp [h]⟩)
  · exact .inl ⟨h, by simp [h]⟩

@[simp] theorem buffer_length (s : State) : s.buffer.length = s.n := by simp [State.buffer]

/-- The candidate word has the buffer's length. -/
@[simp] theorem candidate_length (s : State) : s.candidate.length = s.n := by
  have h : ∀ (l : List Nat) (w : List Byte),
      (l.foldl (fun w q => w.modify (s.errlocAt q) (· ^^^ s.errvalAt q)) w).length = w.length := by
    intro l
    induction l with
    | nil => intro w; rfl
    | cons q l ih => intro w; simp [ih]
  simpa [State.candidate] using h _ s.buffer

/-- The bytes of the buffer are those of `CW`. -/
theorem buffer_getElem (s : State) {i : Nat} (h : i < s.n) : s.buffer[i]'(by simpa using h) = s.cw i := by
  simp [State.buffer]

/-- The buffer depends on `RS_N`, the memory and the reset count only. -/
theorem buffer_congr {s t : State} (hn : t.rsN = s.rsN) (h : keepsMemory s t) : t.buffer = s.buffer := by
  simp only [State.buffer, State.n, hn]
  exact List.map_congr_left fun i _ => h _

@[simp] theorem padded_length (size : Nat) (l : List Byte) : (padded size l).length = size := by
  simp only [padded, List.length_append, List.length_take, List.length_replicate]; omega

end Sys2Proof.Machine
end

