-- ==== Sys2Proof/Tests/Slice0.lean ====
section
/-! SUPPORT. The model's own tests. Expected values are the spec's: words of `30_encoding.md` R93, examples in the
rules, vectors of `95_test_vectors.md`. Small configurations keep each test one short evaluation. -/

namespace Sys2Proof.Tests

open Sys2Proof Sys2Proof.Machine Sys2Proof.Claims

/-! ### Helpers -/

/-- Four syndrome registers and a 4-by-4 grid. -/
def small : Config := { nsymMax := 4, gridMax := 4 }

/-- A state with a buffer of the given bytes and parity count. -/
def loaded (bytes : List Byte) (nsym : Nat) : State :=
  { State.resetOf small with rsN := BitVec.ofNat 8 bytes.length, rsNsym := BitVec.ofNat 8 nsym
                             mem := bytes.zipIdx.map fun p => (cwOffset p.2, p.1) }

/-- The received word of the running example of `41_rs_commands.md`. -/
def received : State := loaded [0x01, 0x57, 0x03, 0x8B, 0xF3, 0x24, 0xF6] 4

/-- The codeword of the running example. -/
def clean : State := loaded [0x01, 0x02, 0x03, 0x8B, 0xF3, 0x8E, 0xF6] 4

/-- Vector RS5c: three errors, root count. -/
def beyond : State := loaded [0x00, 0x07, 0x0A, 0x8B, 0xF3, 0x8E, 0xF6] 4

/-- Vector RS5c after `RS_KES`, with the locator the vector lists. -/
def beyondKes : State :=
  { beyond with lambda := [0x01, 0xB8, 0xE9, 0, 0], rsL := 2, status := { Status.reset with stage := .kes } }

/-- Vector RS8: one parity byte, detection only. -/
def detected : State := loaded [0xDF, 0xAD, 0x73] 1

/-- The state after a command, the state itself where the command stops. -/
def after (i : Instr) (s : State) : State :=
  match exec i s with
  | .next t => t
  | .fault _ => s
  | .refused _ => s

/-- The state after a step, the state itself where the step stops. -/
def stepped (s : State) : State :=
  match step s with
  | .next t => t
  | .fault _ => s
  | .refused _ => s

/-- The running example at each stage, as the examples of R143, R145, R148 and R150 leave it. -/
def atSyn : State :=
  { received with syn := [0xFF, 0x3B, 0x74, 0xA8], status := { Status.reset with stage := .syn } }
def atKes : State := { atSyn with lambda := [1, 0x22, 0x40, 0, 0], rsL := 2, status := { Status.reset with stage := .kes } }
def atChn : State := { atKes with errloc := [1, 5], rsErrcnt := 2, status := { Status.reset with stage := .chn } }
def atFny : State := { atChn with errval := [0x55, 0xAA], status := { Status.reset with stage := .fny } }

/-- The running example of `42_ff_commands.md`: four function cells (value 2 or 3) at the top left. -/
def grid : State :=
  { State.resetOf small with
    ffSize := 4
    mem := [(cellOffset 0 0, 3), (cellOffset 0 1, 2), (cellOffset 0 2, 1), (cellOffset 0 3, 0),
            (cellOffset 1 0, 2), (cellOffset 1 1, 3), (cellOffset 1 2, 1), (cellOffset 1 3, 0),
            (cellOffset 2 0, 1), (cellOffset 2 1, 1), (cellOffset 2 2, 0), (cellOffset 2 3, 0),
            (cellOffset 3 0, 0), (cellOffset 3 1, 0), (cellOffset 3 2, 1), (cellOffset 3 3, 1)] }

/-- The cursor of the running example right after `FF_START`, and at its last four cells. -/
def cursor : State := { grid with status := { Status.reset with ffState := .active } }
def cursorLate : State := { cursor with ffIdx := 8, ffCnt := 8, ffData := 0xC5 }

/-- A state with one move of the host pending, then the given others. -/
def asked (q : Request) (rest : List Request) (s : State) : State := { s with requests := q :: rest }

/-! ### Well-formedness: what each check refuses -/

theorem test_wf_count_zero : (Instr.ffGet 0).wellFormed = false := by decide
theorem test_wf_count_nine : (Instr.ffGet 9).wellFormed = false := by decide
theorem test_wf_counts : (Instr.ffGet 1).wellFormed = true ∧ (Instr.ffGet 8).wellFormed = true := by decide
theorem test_config_polynomial : Config.make 0x11B 0 254 255 = none := by decide
theorem test_config_polynomial_wide : Config.make (0x11D + 512) 0 254 255 = none := by decide
theorem test_config_fcr : Config.make 0x11D 255 254 255 = none := by decide
theorem test_config_nsymMax : Config.make 0x11D 0 255 255 = none ∧ Config.make 0x11D 0 0 255 = none := by decide
theorem test_config_gridMax : Config.make 0x11D 0 254 256 = none ∧ Config.make 0x11D 0 254 0 = none := by decide
theorem test_config_default : Config.make 0x11D 0 254 255 = some Config.default := by decide

/-! ### Decoding: the words of `30_encoding.md` R93, field by field (RSV 31:16, ARG 15:8, OPC 7:0) -/

theorem test_decode_nop : decode 0b00000000000000000000000000000000 = .ok .nop := rfl
theorem test_decode_srst : decode 0b00000000000000000000000000000001 = .ok .srst := rfl
theorem test_decode_rsSyn : decode 0b00000000000000000000000000010000 = .ok .rsSyn := rfl
theorem test_decode_rsKes : decode 0b00000000000000000000000000010001 = .ok .rsKes := rfl
theorem test_decode_rsChn : decode 0b00000000000000000000000000010010 = .ok .rsChn := rfl
theorem test_decode_rsFny : decode 0b00000000000000000000000000010011 = .ok .rsFny := rfl
theorem test_decode_rsApl : decode 0b00000000000000000000000000010100 = .ok .rsApl := rfl
theorem test_decode_rsDec : decode 0b00000000000000000000000000011111 = .ok .rsDec := rfl
theorem test_decode_ffStart : decode 0b00000000000000000000000000100000 = .ok .ffStart := rfl
theorem test_decode_ffGet1 : decode 0b00000000000000000000000100100001 = .ok (.ffGet 1) := rfl
theorem test_decode_ffGet8 : decode 0b00000000000000000000100000100001 = .ok (.ffGet 8) := rfl
theorem test_decode_ffFill : decode 0b00000000000000000000000000101111 = .ok .ffFill := rfl

/-- Vector E1, each branch of R94 that answers "illegal". -/
theorem test_decode_illegal :
    decode 0x00000100 = .error .argNonzero ∧ decode 0x00010000 = .error .reservedNonzero ∧
    decode 0x00000002 = .error .unknownOpcode ∧ decode 0x00000021 = .error .badCount ∧
    decode 0x00000921 = .error .badCount ∧ decode 0xFFFFFFFF = .error .reservedNonzero ∧
    decode 0x0000011F = .error .argNonzero ∧ decode 0x00000015 = .error .unknownOpcode ∧
    decode 0x0000002E = .error .unknownOpcode := ⟨rfl, rfl, rfl, rfl, rfl, rfl, rfl, rfl, rfl⟩

theorem test_encode_ffGet : encode (.ffGet 3) = 0x00000321 := by decide
theorem test_table_word : decodeTableWord 32 0x821 = some (.ffGet 8) := rfl

/-! ### Arithmetic: vectors G1 to G5 of `95_test_vectors.md` -/

theorem test_gfMul : gfMul 0x11D 0x02 0x80 = 0x1D ∧ gfMul 0x11D 0xB6 0x53 = 0xEE ∧ gfMul 0x12D 0x80 0x02 = 0x2D := by
  decide +kernel
theorem test_gfExp : gfExp 0x11D 25 = 0x03 ∧ gfExp 0x11D (-5) = 0x6C ∧ gfExp 0x11D (-256) = 0x8E := by decide +kernel
theorem test_gfInv : gfInv 0x11D 0 = 0 ∧ gfInv 0x11D 0x53 = 0x8C ∧ gfInv 0x12D 2 = 0x96 := by decide +kernel
theorem test_polyEval : polyEval 0x11D [0x01, 0x22, 0x40] 0x6C = 0 ∧ polyEval 0x11D [1, 2, 3] 4 = 0x39 := by
  decide +kernel
theorem test_derivative : derivative [0x01, 0x22, 0x40, 0x07] = [0x22, 0, 0x07] := by decide
theorem test_primitive : isPrimitive 0x12D = true ∧ isPrimitive 0x11B = false := by decide +kernel

/-! ### Commands: the examples of the rules -/

/-- R210's example: `0x014` becomes `0x010`. -/
theorem test_nop : statusWord (after .nop { State.reset with status := ⟨.errUncorr, .syn, false, .idle⟩ }).status = 0x010 := by
  decide
/-- R211's example. -/
theorem test_srst : (after .srst atFny).lambda = [0, 0, 0, 0, 0] ∧ (after .srst atFny).cw 1 = 0x57 := by decide
/-- R143's example. -/
theorem test_rsSyn : (after .rsSyn received).syn = [0xFF, 0x3B, 0x74, 0xA8] := by decide +kernel
theorem test_rsSyn_clean : statusWord (after .rsSyn clean).status = 0x090 := by decide +kernel
/-- R145's example, and vector RS8. -/
theorem test_rsKes : (after .rsKes atSyn).lambda = [0x01, 0x22, 0x40, 0, 0] ∧ (after .rsKes atSyn).rsL = 2 := by
  decide +kernel
theorem test_rsKes_uncorr : statusWord (after .rsKes (after .rsSyn detected)).status = 0x014 := by decide +kernel
/-- R148's example, and a stage out of order (vector S1). -/
theorem test_rsChn : (after .rsChn atKes).errloc = [1, 5] ∧ statusWord (after .rsChn atKes).status = 0x030 := by
  decide +kernel
theorem test_rsChn_order : statusWord (after .rsChn atSyn).status = 0x013 := by decide
/-- R150's example. -/
theorem test_rsFny : (after .rsFny atChn).errval = [0x55, 0xAA] := by decide +kernel
/-- R152's example. -/
theorem test_rsApl : (after .rsApl atFny).buffer = [0x01, 0x02, 0x03, 0x8B, 0xF3, 0x8E, 0xF6] ∧
    statusWord (after .rsApl atFny).status = 0x050 := by decide +kernel
/-- Vector RS1; and the root count of vector RS5c. -/
theorem test_rsDec : statusWord (after .rsDec received).status = 0x050 ∧ (after .rsDec received).cw 5 = 0x8E := by
  decide +kernel
theorem test_rsChn_rootCount : statusWord (after .rsChn beyondKes).status = 0x024 ∧
    (after .rsChn beyondKes).rsErrcnt ≠ beyondKes.rsL := by decide +kernel
/-- R181's path for `s = 3`. -/
theorem test_path : (List.range (idxEnd 3)).map (fun i => cellOf i 3) =
    [(2, 2), (1, 2), (2, 1), (1, 1), (2, 0), (1, 0), (0, 0), (-1, 0), (0, 1), (-1, 1), (0, 2), (-1, 2)] := by decide
/-- R185's example. -/
theorem test_ffStart : statusWord (after .ffStart { grid with ffIdx := 9, ffData := 7 }).status = 0x100 ∧
    (after .ffStart { grid with ffIdx := 9, ffData := 7 }).ffIdx = 0 := by decide
/-- R188's example, and the underrun of vector F5's last row. -/
theorem test_ffGet : (after (.ffGet 8) cursor).ffData = 0xC5 ∧
    lastCellWord (after (.ffGet 8) cursor).ffLast = 0x10002 := by decide +kernel
theorem test_ffGet_underrun : statusWord (after (.ffGet 8) cursorLate).status = 0x205 ∧
    (after (.ffGet 8) cursorLate).ffData = 0xC5 ∧ (after (.ffGet 8) cursorLate).ffCnt = 12 := by decide +kernel
/-- R190's examples: one codeword with cells left over, two codewords with too few cells. -/
theorem test_ffFill_leftover : statusWord (after .ffFill { grid with rsN := 1 }).status = 0x106 ∧
    (after .ffFill { grid with rsN := 1 }).cw 0 = 0xC5 ∧ (after .ffFill { grid with rsN := 1 }).ffIdx = 12 := by
  decide +kernel
theorem test_ffFill_underrun : statusWord (after .ffFill { grid with rsN := 2 }).status = 0x205 ∧
    (after .ffFill { grid with rsN := 2 }).ffIdx = 16 := by decide +kernel

/-! ### The port: vectors E2 to E5 -/

theorem test_read_cap1 : (busRead 0x008 State.reset).response = some (.value 0x00FFFFFE) := by decide
theorem test_read_hole : (busRead 0x7FC State.reset).response = some (.busError 0x7FC) := by decide
theorem test_read_last_syn : (busRead 0xBF4 State.reset).response = some (.value 0) := by decide +kernel
theorem test_write_readOnly : stepped (asked (.write 0x010 1) [] atKes) =
    { atKes with response := some (.busError 0x010) } := by decide +kernel
theorem test_write_masks : (busRead 0x40000 (stepped (asked (.write 0x40000 0xFFFFFFFF) [] cursor))).response =
    some (.value 3) ∧ (stepped (asked (.write 0x40000 0xFFFFFFFF) [] cursor)).status.ffState = .idle := by decide +kernel
/-- Vector S1: a `CW` write beyond `RS_N` still invalidates. -/
theorem test_write_invalidates : statusWord (stepped (asked (.write 0x720 0) [] atKes)).status = 0 := by decide +kernel
theorem test_step_runs_command : stepped (State.reset.withFetchWord 32 0x10) =
    { State.reset with response := some .completed, status := { Status.reset with code := .errCfg } } := by decide +kernel
/-- R98: `LOADCW` and `DECODE` expand to the moves of program P1. -/
theorem test_script : loadCw [1, 0x57] ++ decodeScript 7 4 =
    [.write 0x400 1, .write 0x404 0x57, .write 0x014 7, .write 0x018 4, .write 0x00C 0x1F, .read 0x010] := by decide

/-! ### Witnesses: a concrete state for the hypotheses of each statement that has some -/

theorem witness_StepRunsTheDecodedCommand :
    (asked (.write 0x00C 0x1F) [.read 0x010] received).requests = .write 0x00C 0x1F :: [.read 0x010] ∧
    decode 0x1F = .ok .rsDec := ⟨rfl, rfl⟩
theorem witness_IllegalWordOnlySetsErrCmd :
    (asked (.write 0x00C 0x921) [] received).requests = .write 0x00C 0x921 :: [] ∧
    (0x921 : Word) ∉ commandTable.map Prod.fst := ⟨rfl, by decide⟩
theorem witness_PlacedWordRunsNext : Instr.wellFormed (.ffGet 8) = true := by decide
theorem witness_HardwareReset : (asked .hardReset [] received).requests = .hardReset :: [] := rfl
theorem witness_MisalignedAccessIsBusError :
    (0x00002 : Offset).toNat % 4 ≠ 0 ∧ (0x7FFFF : Offset).toNat % 4 ≠ 0 ∧
    (asked (.read 0x00002) [] received).requests = .read 0x00002 :: [] := ⟨by decide, by decide, rfl⟩
theorem witness_UnlistedOffset_hole :
    ¬ listedOffset small (0x7FC : Offset).toNat ∧ ¬ listedOffset small (0x038 : Offset).toNat ∧
    ¬ listedOffset small (0x810 : Offset).toNat ∧ ¬ listedOffset small (0x40010 : Offset).toNat ∧
    (asked (.write 0x7FC 1) [] received).requests = .write 0x7FC 1 :: [] := by
  have g : small.gridMax = 4 := rfl
  have m : small.nsymMax = 4 := rfl
  have a : (0x7FC : Offset).toNat = 2044 ∧ (0x038 : Offset).toNat = 56 ∧ (0x810 : Offset).toNat = 2064 ∧
      (0x40010 : Offset).toNat = 262160 := by decide
  obtain ⟨a1, a2, a3, a4⟩ := a
  refine ⟨?_, ?_, ?_, ?_, rfl⟩ <;> unfold listedOffset <;> simp only [a1, a2, a3, a4, g, m] <;> clear a1 a2 a3 a4
  all_goals
    rintro (⟨_, _, h⟩ | ⟨_, _, h⟩ | ⟨_, _, h⟩ | ⟨_, _, h⟩ | ⟨_, _, h⟩ | ⟨_, _, h⟩ | ⟨_, _, _, _, h⟩) <;> omega
theorem witness_UnlistedOffset_cell :
    3 < small.gridMax ∧ (0x40C0C : Offset).toNat = 0x40000 + 4 * (256 * 3 + 3) := by decide
theorem witness_ReadOnlyWriteIsBusError :
    readOnlyOffset small (0x000 : Offset).toNat ∧ readOnlyOffset small (0x034 : Offset).toNat ∧
    readOnlyOffset small (0x80C : Offset).toNat ∧ readOnlyOffset small (0xC10 : Offset).toNat ∧
    readOnlyOffset small (0x1004 : Offset).toNat ∧ readOnlyOffset small (0x1404 : Offset).toNat :=
  ⟨.inl (by decide), .inl (by decide), .inr (.inl ⟨3, by decide⟩), .inr (.inr (.inl ⟨4, by decide⟩)),
   .inr (.inr (.inr (.inl ⟨1, by decide⟩))), .inr (.inr (.inr (.inr ⟨1, by decide⟩)))⟩
theorem witness_ReadsHaveNoSideEffect :
    step (asked (.read 0x030) [.read 0x030] cursor) =
      .next { asked (.read 0x030) [] cursor with response := some (.value 0) } ∧
    step { asked (.read 0x030) [] cursor with response := some (.value 0) } =
      .next { cursor with response := some (.value 0) } := ⟨rfl, rfl⟩
theorem witness_WriteSideEffects_rs :
    rsWriteOffset (0x7F8 : Offset).toNat ∧ busWrite 0x7F8 1 atKes =
      .next (((atKes.setCw 254 1).invalidateRs).respond .completed) := ⟨.inr (.inr ⟨254, by decide⟩), rfl⟩
theorem witness_WriteSideEffects_ff :
    ffWriteOffset small (0x40C0C : Offset).toNat ∧ busWrite 0x40C0C 1 cursor =
      .next (((cursor.setCell 3 3 1).invalidateFf).respond .completed) := ⟨.inr ⟨3, 3, by decide⟩, rfl⟩
theorem witness_OnlyCommandsChangeCode :
    plainMove (.write 0x014 5) ∧ step (asked (.write 0x014 5) [] atKes) =
      .next (({ atKes with rsN := 5 }.invalidateRs).respond .completed) := ⟨⟨by decide, fun w h => by simp at h⟩, rfl⟩
theorem witness_OnlyTheHostChangesCells :
    (stepped (asked (.write 0x40000 0) [] grid)).cell 0 0 ≠ grid.cell 0 0 := by decide +kernel
theorem witness_OnlyListedMovesChangeCodewords :
    (stepped (asked (.write 0x00C 0x14) [] atFny)).cw 1 ≠ atFny.cw 1 ∧
    (stepped (asked (.write 0x400 9) [] atFny)).cw 0 ≠ atFny.cw 0 := by decide +kernel
theorem witness_FieldLaws_roots :
    ([0x01, 0x22, 0x40] : List Byte).getD 2 0 ≠ 0 ∧ ([0x6C, 0x8E] : List Byte).Nodup ∧
    ∀ v ∈ ([0x6C, 0x8E] : List Byte), polyEval small.primPoly [0x01, 0x22, 0x40] v = 0 := by decide +kernel
theorem witness_LegalPolynomials :
    (0x11D : BitVec 9).getLsbD 8 = true ∧ (0x11D : BitVec 9) ∈ legalPolynomials ∧
    (0x11B : BitVec 9).getLsbD 8 = true ∧ (0x11B : BitVec 9) ∉ legalPolynomials := by decide
theorem witness_PathVisitsEveryCellOnce : 1 ≤ 3 ∧ 0 < 3 ∧ 2 < 3 ∧ 11 < idxEnd 3 := by decide

theorem witness_rsConfig : rsConfig received ∧ rsConfig (loaded [0x5A] 1) ∧ rsConfig (loaded [0x5A] 0) :=
  ⟨⟨by decide, by decide, by decide⟩, ⟨by decide, by decide, by decide⟩, ⟨by decide, by decide, by decide⟩⟩
theorem witness_not_rsConfig :
    ¬ rsConfig (loaded [] 0) ∧ ¬ rsConfig (loaded [1, 2, 3] 4) ∧ ¬ rsConfig (loaded [1, 2, 3, 4, 5] 5) := by
  refine ⟨fun h => ?_, fun h => ?_, fun h => ?_⟩ <;> obtain ⟨h1, h2, h3⟩ := h
  · exact absurd h1 (by decide)
  · exact absurd h2 (by decide)
  · exact absurd h3 (by decide)
theorem witness_RsKes :
    atSyn.status.stage = .syn ∧ (solveKey atSyn.cfg atSyn.syn atSyn.nsym).len = 2 ∧ atSyn.nsym / 2 = 2 ∧
    (after .rsSyn detected).status.stage = .syn ∧ detected.nsym / 2 = 0 ∧
    (after .rsKes (after .rsSyn detected)).rsL = 1 := by decide +kernel
theorem witness_KeySolver : 4 ≤ small.nsymMax ∧ (solveKey small [0xFF, 0x3B, 0x74, 0xA8] 4).len ≤ 3 := by decide +kernel
theorem witness_RsChn : atKes.status.stage = .kes ∧ (after .rsChn atKes).rsErrcnt = 2 := by decide +kernel
theorem witness_RsFny :
    atChn.status.stage = .chn ∧ (evaluator atChn.cfg atChn.syn atChn.lambda 4) = [0xFF, 0x4E, 0, 0] ∧
    (1 : Nat) < atChn.rsErrcnt.toNat ∧ 1 < small.nsymMax / 2 := by decide +kernel
theorem witness_RsApl_commits :
    atFny.status.stage = .fny ∧ atFny.candidate = [0x01, 0x02, 0x03, 0x8B, 0xF3, 0x8E, 0xF6] ∧
    (∀ i, i < atFny.n → atFny.candidate.getD i 0 =
      atFny.cw i ^^^ xorSum atFny.rsErrcnt.toNat fun q => if atFny.errlocAt q = i then atFny.errvalAt q else 0) ∧
    ∀ j, j < atFny.nsym → syndrome atFny.cfg atFny.candidate j = 0 := by decide +kernel
theorem witness_RsApl_refuses :
    ({ atFny with errval := [0x55, 0xAB] }).status.stage = .fny ∧
    syndrome atFny.cfg ({ atFny with errval := [0x55, 0xAB] }).candidate 0 ≠ 0 := by decide +kernel
theorem witness_RsDecOk : rsConfig received ∧ (after .rsDec received).status.code = .ok :=
  ⟨witness_rsConfig.1, by decide +kernel⟩
theorem witness_FailedRsCommand :
    isRs .rsChn ∧ exec .rsChn beyondKes = .next (after .rsChn beyondKes) ∧
    ((after .rsChn beyondKes).status.code ≠ .ok ∨ (Instr.rsChn ≠ .rsApl ∧ Instr.rsChn ≠ .rsDec)) :=
  ⟨by simp [isRs], rfl, .inl (by decide +kernel)⟩
theorem witness_RsDecAcceptsACodeword : rsConfig clean ∧ ∀ j, j < clean.nsym → syndrome clean.cfg clean.buffer j = 0 :=
  ⟨⟨by decide, by decide, by decide⟩, by decide +kernel⟩
theorem witness_RsDecDependsOnItsOperandsOnly :
    rsConfig received ∧ ∀ i, i < received.n → received.cw i = (after .srst atFny).cw i :=
  ⟨witness_rsConfig.1, by decide +kernel⟩
theorem witness_RsDecCorrectsUpToCapacity :
    (clean.buffer.length = received.n) ∧ (∀ j, j < received.nsym → syndrome received.cfg clean.buffer j = 0) ∧
    (List.range received.n).filter (fun i => received.cw i != clean.buffer.getD i 0) = [1, 5] ∧
    [1, 5].length ≤ received.nsym / 2 := by decide +kernel
theorem witness_ffConfig :
    ffConfig grid ∧ ffConfig { grid with ffSize := 1 } ∧ ¬ ffConfig { grid with ffSize := 5 } ∧
    ¬ ffConfig { grid with ffSize := 0 } :=
  ⟨⟨by decide, by decide⟩, ⟨by decide, by decide⟩, fun h => absurd h.2 (by decide), fun h => absurd h.1 (by decide)⟩
theorem witness_FfGet :
    cursor.status.ffState ≠ .idle ∧ cursor.ffIdx.toNat ≤ idxEnd cursor.side ∧
    (dataFrom cursor 0).length = 12 ∧ dataFrom cursorLate 8 = [12, 13, 14, 15] ∧ (8 : BitVec 8).toNat = 8 := by
  decide +kernel
theorem witness_FfFill :
    1 ≤ ({ grid with rsN := 1 }).n ∧ (dataFrom { grid with rsN := 1 } 0).length = 12 ∧
    8 * ({ grid with rsN := 1 }).n < 12 ∧ 12 < 8 * ({ grid with rsN := 2 }).n := by decide +kernel
/-- An exact fill: a 4-by-4 grid whose sixteen cells carry data, two codewords. -/
theorem witness_FfFill_exact :
    (dataFrom { grid with rsN := 2, mem := grid.mem.map fun p => (p.1, p.2 &&& 1) } 0).length =
      8 * ({ grid with rsN := 2 }).n := by decide +kernel
/-- A state about to serve a write of `RS_N` meets the shape, pipeline and cursor invariants, and it steps. -/
theorem witness_invariants :
    ShapeOk (asked (.write 0x014 5) [] (State.resetOf small)) ∧
    PipelineOk (asked (.write 0x014 5) [] (State.resetOf small)) ∧
    CursorOk (asked (.write 0x014 5) [] (State.resetOf small)) ∧
    step (asked (.write 0x014 5) [] (State.resetOf small)) =
      .next (({ State.resetOf small with rsN := 5 }.invalidateRs).respond .completed) := by
  refine ⟨⟨rfl, rfl, rfl, rfl, List.Pairwise.nil, fun p hp => by cases hp⟩, ?_, ?_, rfl⟩
  · exact { szero_none := fun _ => rfl, config := fun h => absurd rfl h, syn_current := fun h => absurd rfl h,
            syn_tail := fun h => absurd rfl h, szero_iff := fun h => absurd rfl h,
            locator := fun h => absurd h (by decide), positions := fun h => absurd h (by decide),
            values := fun h => absurd h (by decide), codeword := fun h => absurd h (by decide) }
  · exact { config := fun h => absurd rfl h, idx_le := fun h => absurd rfl h, cnt := fun h => absurd rfl h,
            valid := fun h => absurd rfl h, ended := fun h => absurd h (by decide) }

end Sys2Proof.Tests
end

section
/-! PROOFS. The read-only identity and capability registers (`10_state.md` R24 to R26): the port's answer at a
mapped location, the fields of `CAP0` and `CAP1` as numbers, and the obligation O16. -/

namespace Sys2Proof.Machine

theorem locate_id (c : Config) : locate c 0x000 = some .id := rfl

theorem locate_cap0 (c : Config) : locate c 0x004 = some .cap0 := rfl

theorem locate_cap1 (c : Config) : locate c 0x008 = some .cap1 := rfl

/-- A read of a mapped location answers its value (`20_memory.md` R66). -/
theorem busRead_mapped {s : State} {off : Offset} {l : Loc} (h : locate s.cfg off = some l) :
    busRead off s = s.respond (.value (s.valueAt l)) := by simp [busRead, h]

/-- A write of a read-only location is a bus error (`20_memory.md` R65). -/
theorem busWrite_readOnly {s : State} {off : Offset} {l : Loc} (h : locate s.cfg off = some l)
    (hl : writable l = false) (v : Word) : busWrite off v s = .next (s.busError off) := by
  have hcmd : l ≠ .cmd := by rintro rfl; cases hl
  simp [busWrite, h, hcmd, hl]

/-- Two fields side by side in a word, as a number: the upper field counts in units of `2 ^ k`. -/
theorem toNat_field_or (hi lo : Word) (k : Nat) (hlo : lo.toNat < 2 ^ k) (hhi : hi.toNat * 2 ^ k < 2 ^ 32) :
    (hi <<< k ||| lo).toNat = lo.toNat + 2 ^ k * hi.toNat := by
  have hshift : (hi <<< k).toNat = hi.toNat <<< k := by
    rw [BitVec.toNat_shiftLeft, Nat.mod_eq_of_lt (by rwa [Nat.shiftLeft_eq])]
  rw [BitVec.toNat_or, hshift, ← Nat.shiftLeft_add_eq_or_of_lt hlo, Nat.shiftLeft_eq]
  ring

/-- A byte's number in a word. -/
theorem toNat_byteField {n : Nat} (h : n < 256) : ((BitVec.ofNat 8 n).setWidth 32).toNat = n := by
  rw [BitVec.toNat_setWidth, BitVec.toNat_ofNat]
  omega

/-- `CAP0` as a number (`10_state.md` R25). -/
theorem cap0Word_eq (c : Config) : cap0Word c = BitVec.ofNat 32 (c.primPoly.toNat + 65536 * c.fcr) := by
  have hfcr := c.fcr_le
  have hpoly : (c.primPoly.setWidth 32).toNat = c.primPoly.toNat := BitVec.toNat_setWidth_of_le (by decide)
  have hfield := toNat_byteField (n := c.fcr) (by omega)
  apply BitVec.eq_of_toNat_eq
  rw [cap0Word, toNat_field_or _ _ 16 (by omega) (by omega), hpoly, hfield, BitVec.toNat_ofNat]
  omega

/-- `CAP1` as a number (`10_state.md` R26). -/
theorem cap1Word_eq (c : Config) :
    cap1Word c = BitVec.ofNat 32 (c.nsymMax + 256 * 255 + 65536 * c.gridMax) := by
  have hnsym := c.nsymMax_le
  have hgrid := c.gridMax_le
  have hnsymField := toNat_byteField (n := c.nsymMax) (by omega)
  have hnField := toNat_byteField (n := Config.nMax) (by decide)
  have hgridField := toNat_byteField (n := c.gridMax) (by omega)
  have hn : Config.nMax = 255 := rfl
  have hlow := toNat_field_or ((BitVec.ofNat 8 Config.nMax).setWidth 32) ((BitVec.ofNat 8 c.nsymMax).setWidth 32) 8
    (by omega) (by omega)
  apply BitVec.eq_of_toNat_eq
  rw [cap1Word, BitVec.or_assoc, toNat_field_or _ _ 16 (by omega) (by omega), hlow, hnsymField, hnField, hgridField,
    BitVec.toNat_ofNat]
  omega

end Sys2Proof.Machine

namespace Sys2Proof.Proofs

open Sys2Proof.Machine Sys2Proof.Claims

/-- What the host reads at a mapped offset. -/
theorem readOf_mapped {s : State} {off : Nat} {l : Loc} (h : locate s.cfg (BitVec.ofNat 19 off) = some l) :
    readOf s off = some (.value (s.valueAt l)) := by
  rw [readOf, busRead_mapped h, State.respond_response]

theorem readsNat_id (s : State) : readsNat s 0x000 0x52534646 := readOf_mapped (locate_id s.cfg)

theorem readsNat_cap0 (s : State) : readsNat s 0x004 (s.cfg.primPoly.toNat + 65536 * s.cfg.fcr) := by
  rw [readsNat, ← cap0Word_eq]
  exact readOf_mapped (locate_cap0 s.cfg)

theorem readsNat_cap1 (s : State) :
    readsNat s 0x008 (s.cfg.nsymMax + 256 * 255 + 65536 * s.cfg.gridMax) := by
  rw [readsNat, ← cap1Word_eq]
  exact readOf_mapped (locate_cap1 s.cfg)

/-- Settles O16: each register's read is its location's value, `CAP0` and `CAP1` have their fields as a number, the
default numbers are the case `cfg = Config.default`, and a write meets a read-only location. -/
theorem identityAndCapabilityRegistersAreConstants : Obligations.IdentityAndCapabilityRegistersAreConstants := by
  intro s
  refine ⟨readsNat_id s, readsNat_cap0 s, readsNat_cap1 s, fun hdefault => ⟨?cap0, ?cap1⟩, ?write⟩
  case cap0 => simpa [hdefault, Config.default] using readsNat_cap0 s
  case cap1 => simpa [hdefault, Config.default] using readsNat_cap1 s
  case write =>
    rintro v off (rfl | rfl | rfl)
    · exact busWrite_readOnly (locate_id s.cfg) rfl v
    · exact busWrite_readOnly (locate_cap0 s.cfg) rfl v
    · exact busWrite_readOnly (locate_cap1 s.cfg) rfl v

end Sys2Proof.Proofs
end

section
/-! PROOFS. The host's transactions (`20_memory.md` R63 to R69): the address map from offset to location and back, what
a read and a write answer, what a store changes and leaves unchanged, and the obligations O11, O12, O13, O14, O15
and O17. -/

namespace Sys2Proof.Machine

/-! ### The map of `10_state.md` R20 -/

/-- The location is in the map of configuration `c`: an array's index is below its size (`20_memory.md` R64). Tied to
`locate` by `inMap_of_locate` and `locate_of_inMap`. -/
def Loc.inMap (c : Config) : Loc → Prop
  | .cw i => i < Config.nMax
  | .syn j => j < c.nsymMax
  | .lambda i => i < c.nsymMax + 1
  | .errloc k => k < c.tMax
  | .errval k => k < c.tMax
  | .cell y x => y < c.gridMax ∧ x < c.gridMax
  | _ => True

@[simp] theorem Loc.inMap_cw (c : Config) (i : Nat) : (Loc.cw i).inMap c ↔ i < 255 := Iff.rfl
@[simp] theorem Loc.inMap_syn (c : Config) (j : Nat) : (Loc.syn j).inMap c ↔ j < c.nsymMax := Iff.rfl
@[simp] theorem Loc.inMap_lambda (c : Config) (i : Nat) : (Loc.lambda i).inMap c ↔ i < c.nsymMax + 1 := Iff.rfl
@[simp] theorem Loc.inMap_errloc (c : Config) (k : Nat) : (Loc.errloc k).inMap c ↔ k < c.nsymMax / 2 := Iff.rfl
@[simp] theorem Loc.inMap_errval (c : Config) (k : Nat) : (Loc.errval k).inMap c ↔ k < c.nsymMax / 2 := Iff.rfl
@[simp] theorem Loc.inMap_cell (c : Config) (y x : Nat) :
    (Loc.cell y x).inMap c ↔ y < c.gridMax ∧ x < c.gridMax := Iff.rfl

@[simp] theorem offsetOf_cw (i : Nat) : offsetOf (.cw i) = 0x400 + 4 * i := rfl
@[simp] theorem offsetOf_syn (j : Nat) : offsetOf (.syn j) = 0x800 + 4 * j := rfl
@[simp] theorem offsetOf_lambda (i : Nat) : offsetOf (.lambda i) = 0xC00 + 4 * i := rfl
@[simp] theorem offsetOf_errloc (k : Nat) : offsetOf (.errloc k) = 0x1000 + 4 * k := rfl
@[simp] theorem offsetOf_errval (k : Nat) : offsetOf (.errval k) = 0x1400 + 4 * k := rfl
@[simp] theorem offsetOf_cell (y x : Nat) : offsetOf (.cell y x) = 0x40000 + 4 * (256 * y + x) := rfl

/-- The scalar registers end at `0x034`. -/
theorem scalarAt_beyond (k : Nat) : scalarAt (k + 0x38) = none := rfl

/-- `scalarAt` answers the location that has the offset. -/
theorem scalarAt_eq_some {a : Nat} {l : Loc} (h : scalarAt a = some l) (c : Config) :
    l.inMap c ∧ a = offsetOf l := by
  obtain ha | ha := Nat.lt_or_ge a 0x38
  · interval_cases a <;> cases h <;> exact ⟨trivial, rfl⟩
  · rw [← Nat.sub_add_cancel ha, scalarAt_beyond] at h
    cases h

/-- Entry `i` of an array stands `4 * i` bytes after the array's base. -/
theorem entryAt_eq_some_iff {make : Nat → Loc} {size base a : Nat} {l : Loc} (haligned : a % 4 = base % 4)
    (hbase : base ≤ a) :
    entryAt make size ((a - base) / 4) = some l ↔ ∃ i, i < size ∧ l = make i ∧ a = base + 4 * i := by
  unfold entryAt
  constructor
  · intro h
    split_ifs at h with hi
    cases h
    exact ⟨_, hi, rfl, by omega⟩
  · rintro ⟨i, hi, rfl, ha⟩
    have hindex : (a - base) / 4 = i := by omega
    rw [hindex, if_pos hi]

/-- Rows of cells are 256 words apart. -/
theorem cellAt_eq_some_iff {gridMax a : Nat} {l : Loc} (hgrid : gridMax ≤ 255) (haligned : a % 4 = 0)
    (hbase : 0x40000 ≤ a) :
    cellAt gridMax ((a - 0x40000) / 4) = some l ↔
      ∃ y x, y < gridMax ∧ x < gridMax ∧ l = .cell y x ∧ a = cellOffset y x := by
  unfold cellAt cellOffset
  constructor
  · intro h
    split_ifs at h with hcell
    cases h
    exact ⟨_, _, hcell.2, hcell.1, rfl, by omega⟩
  · rintro ⟨y, x, hy, hx, rfl, ha⟩
    have hrow : (a - 0x40000) / 4 / 256 = y := by omega
    have hcolumn : (a - 0x40000) / 4 % 256 = x := by omega
    rw [hrow, hcolumn, if_pos ⟨hx, hy⟩]

/-- A location found at an offset is in the map, at that offset. -/
theorem inMap_of_locate {c : Config} {off : Offset} {l : Loc} (h : locate c off = some l) :
    l.inMap c ∧ off.toNat = offsetOf l := by
  simp only [locate] at h
  split_ifs at h with haligned hscalar hcw hsyn hlambda herrloc herrval hhole
  case pos => exact scalarAt_eq_some h c
  case neg =>
    obtain ⟨y, x, hy, hx, rfl, ha⟩ := (cellAt_eq_some_iff c.gridMax_le (by omega) (by omega)).mp h
    exact ⟨⟨hy, hx⟩, ha⟩
  all_goals
    obtain ⟨i, hi, rfl, ha⟩ := (entryAt_eq_some_iff (by omega) (by omega)).mp h
    exact ⟨hi, ha⟩

/-- The offset of a location in the map finds the location. -/
theorem locate_of_inMap {c : Config} {off : Offset} {l : Loc} (hl : l.inMap c) (h : off.toNat = offsetOf l) :
    locate c off = some l := by
  have hnsym := c.nsymMax_le
  simp only [locate]
  cases l with
  | cw i | syn i | lambda i | errloc i | errval i =>
    simp only [Loc.inMap_cw, Loc.inMap_syn, Loc.inMap_lambda, Loc.inMap_errloc, Loc.inMap_errval, offsetOf_cw,
      offsetOf_syn, offsetOf_lambda, offsetOf_errloc, offsetOf_errval] at hl h
    simp (disch := omega) only [if_pos, if_neg]
    exact (entryAt_eq_some_iff (by omega) (by omega)).mpr ⟨i, hl, rfl, h⟩
  | cell y x =>
    rw [offsetOf_cell] at h
    simp (disch := omega) only [if_neg]
    exact (cellAt_eq_some_iff c.gridMax_le (by omega) (by omega)).mpr ⟨y, x, hl.1, hl.2, rfl, h⟩
  | _ => rw [h]; rfl

theorem offsetOf_aligned (l : Loc) : offsetOf l % 4 = 0 := by
  cases l with
  | cw i | syn i | lambda i | errloc i | errval i | cell y x =>
    simp only [offsetOf_cw, offsetOf_syn, offsetOf_lambda, offsetOf_errloc, offsetOf_errval, offsetOf_cell]
    omega
  | _ => rfl

theorem offsetOf_lt {c : Config} {l : Loc} (hl : l.inMap c) : offsetOf l < 2 ^ 19 := by
  have hnsym := c.nsymMax_le
  have hgrid := c.gridMax_le
  cases l with
  | cw i => rw [Loc.inMap_cw] at hl; rw [offsetOf_cw]; omega
  | syn j => rw [Loc.inMap_syn] at hl; rw [offsetOf_syn]; omega
  | lambda i => rw [Loc.inMap_lambda] at hl; rw [offsetOf_lambda]; omega
  | errloc k => rw [Loc.inMap_errloc] at hl; rw [offsetOf_errloc]; omega
  | errval k => rw [Loc.inMap_errval] at hl; rw [offsetOf_errval]; omega
  | cell y x => rw [Loc.inMap_cell] at hl; rw [offsetOf_cell]; omega
  | _ => decide

theorem locate_offsetOf {c : Config} {l : Loc} (hl : l.inMap c) :
    locate c (BitVec.ofNat 19 (offsetOf l)) = some l :=
  locate_of_inMap hl (by rw [BitVec.toNat_ofNat, Nat.mod_eq_of_lt (offsetOf_lt hl)])

/-- A misaligned offset is outside the map (`20_memory.md` R63). -/
theorem locate_misaligned {c : Config} {off : Offset} (h : off.toNat % 4 ≠ 0) : locate c off = none := by
  refine Option.eq_none_iff_forall_ne_some.mpr fun l hl => h ?_
  rw [(inMap_of_locate hl).2, offsetOf_aligned]

/-- Two offsets with one location are equal. -/
theorem locate_inj {c : Config} {off off' : Offset} {l : Loc} (h : locate c off = some l)
    (h' : locate c off' = some l) : off = off' :=
  BitVec.eq_of_toNat_eq ((inMap_of_locate h).2.trans (inMap_of_locate h').2.symm)

/-! ### What a read and a write answer -/

theorem busRead_unmapped {s : State} {off : Offset} (h : locate s.cfg off = none) :
    busRead off s = s.busError off := by simp [busRead, h]

theorem busWrite_unmapped {s : State} {off : Offset} (h : locate s.cfg off = none) (v : Word) :
    busWrite off v s = .next (s.busError off) := by simp [busWrite, h]

/-- A write of a read-write location stores its field and completes (`20_memory.md` R66). -/
theorem busWrite_store {s : State} {off : Offset} {l : Loc} (h : locate s.cfg off = some l)
    (hcmd : l ≠ .cmd) (hw : writable l = true) (v : Word) :
    busWrite off v s = .next ((s.storeAt l v).respond .completed) := by
  simp [busWrite, h, hcmd, hw]

/-- A transaction outside the map answers a bus error (`20_memory.md` R63, R64). -/
theorem step_unmapped {s : State} {rest : List Request} {off : Offset} {q : Request}
    (h : locate s.cfg off = none) (hq : q = .read off ∨ ∃ v, q = .write off v) (hpending : s.requests = q :: rest) :
    step s = .next { s with requests := rest, response := some (.busError off) } := by
  rw [step_cons hpending]
  obtain rfl | ⟨v, rfl⟩ := hq
  · exact congrArg Host.Outcome.next (busRead_unmapped (s := { s with requests := rest }) h)
  · exact busWrite_unmapped (s := { s with requests := rest }) h v

/-- The pending moves and the last answer are no part of a location's value. -/
theorem State.valueAt_port (s : State) (moves : List Request) (r : Option Response) (l : Loc) :
    State.valueAt { s with requests := moves, response := r } l = s.valueAt l := by
  cases l <;> rfl

/-- A step that serves a read changes the answer only (`20_memory.md` R68). -/
theorem step_read {s : State} {rest : List Request} {off : Offset} (hpending : s.requests = .read off :: rest) :
    ∃ r, (busRead off s).response = some r ∧ step s = .next { s with requests := rest, response := some r } := by
  rw [step_cons hpending]
  cases h : locate s.cfg off with
  | none =>
    exact ⟨.busError off, congrArg State.response (busRead_unmapped h),
      congrArg Host.Outcome.next (busRead_unmapped (s := { s with requests := rest }) h)⟩
  | some l =>
    refine ⟨.value (s.valueAt l), congrArg State.response (busRead_mapped h), congrArg Host.Outcome.next ?_⟩
    rw [busRead_mapped (s := { s with requests := rest }) h, s.valueAt_port rest s.response l]
    rfl

@[simp] theorem State.valueAt_respond (s : State) (r : Response) (l : Loc) :
    (s.respond r).valueAt l = s.valueAt l := s.valueAt_port s.requests (some r) l

/-- What a read answers depends on the configuration and on the location's value only. -/
theorem busRead_response_congr {s t : State} {off : Offset} (hcfg : t.cfg = s.cfg)
    (hvalue : ∀ l, locate s.cfg off = some l → t.valueAt l = s.valueAt l) :
    (busRead off t).response = (busRead off s).response := by
  cases h : locate s.cfg off with
  | none => rw [busRead_unmapped h, busRead_unmapped (hcfg ▸ h)]; rfl
  | some l => rw [busRead_mapped h, busRead_mapped (hcfg ▸ h), hvalue l h]; rfl

/-! ### What a store changes and leaves unchanged -/

@[simp] theorem State.cw_invalidateRs (s : State) (i : Nat) : s.invalidateRs.cw i = s.cw i := rfl

@[simp] theorem State.cell_invalidateFf (s : State) (y x : Nat) : s.invalidateFf.cell y x = s.cell y x := rfl

@[simp] theorem storeAt_cfg (s : State) (l : Loc) (v : Word) : (s.storeAt l v).cfg = s.cfg := by rw [storeAt_frame]

@[simp] theorem storeAt_requests (s : State) (l : Loc) (v : Word) : (s.storeAt l v).requests = s.requests := by
  rw [storeAt_frame]

@[simp] theorem storeAt_resets (s : State) (l : Loc) (v : Word) : (s.storeAt l v).resets = s.resets := by
  rw [storeAt_frame]

/-- The read-write locations whose write invalidates the Reed-Solomon results (`10_state.md` R46 (a)). -/
def Loc.feedsRs : Loc → Bool
  | .rsN => true
  | .rsNsym => true
  | .cw _ => true
  | _ => false

/-- The read-write locations whose write invalidates the cursor (`10_state.md` R47 (a)). -/
def Loc.feedsFf : Loc → Bool
  | .ffSize => true
  | .cell _ _ => true
  | _ => false

/-- A write reaches `CMD` and the two kinds of read-write location (`20_memory.md` R69). -/
theorem writable_iff (l : Loc) : writable l = true ↔ l = .cmd ∨ l.feedsRs = true ∨ l.feedsFf = true := by
  cases l with
  | cmd => exact iff_of_true rfl (.inl rfl)
  | rsN | rsNsym | cw i => exact iff_of_true rfl (.inr (.inl rfl))
  | ffSize | cell y x => exact iff_of_true rfl (.inr (.inr rfl))
  | _ => exact iff_of_false Bool.false_ne_true nofun

theorem storeAt_status_of_feedsRs (s : State) {l : Loc} (h : l.feedsRs = true) (v : Word) :
    (s.storeAt l v).status = { s.status with stage := .none, szero := false } := by
  cases l with
  | rsN | rsNsym | cw i => rfl
  | _ => cases h

theorem storeAt_status_of_feedsFf (s : State) {l : Loc} (h : l.feedsFf = true) (v : Word) :
    (s.storeAt l v).status = { s.status with ffState := .idle } := by
  cases l with
  | ffSize | cell y x => rfl
  | _ => cases h

theorem storeAt_rsN_other (s : State) {l : Loc} (h : l ≠ .rsN) (v : Word) : (s.storeAt l v).rsN = s.rsN := by
  cases l with
  | rsN => exact absurd rfl h
  | _ => rfl

theorem storeAt_rsNsym_other (s : State) {l : Loc} (h : l ≠ .rsNsym) (v : Word) :
    (s.storeAt l v).rsNsym = s.rsNsym := by
  cases l with
  | rsNsym => exact absurd rfl h
  | _ => rfl

theorem storeAt_ffSize_other (s : State) {l : Loc} (h : l ≠ .ffSize) (v : Word) :
    (s.storeAt l v).ffSize = s.ffSize := by
  cases l with
  | ffSize => exact absurd rfl h
  | _ => rfl

theorem storeAt_cw_other (s : State) {l : Loc} {i : Nat} (hi : i < 256) (h : l ≠ .cw i) (v : Word) :
    (s.storeAt l v).cw i = s.cw i := by
  cases l with
  | cw j => exact State.cw_setCw_other s _ fun e => h (e ▸ rfl)
  | cell y x => exact State.cw_setCell s hi y x _
  | _ => rfl

theorem storeAt_cell_other (s : State) {l : Loc} {y x : Nat} (hl : l.inMap s.cfg) (hx : x < 256)
    (h : l ≠ .cell y x) (v : Word) : (s.storeAt l v).cell y x = s.cell y x := by
  cases l with
  | cw i =>
    have hi : i < 255 := hl
    exact State.cell_setCw s (by omega) _ y x
  | cell y' x' =>
    have hx' := hl.2.trans_le s.cfg.gridMax_le
    exact State.cell_setCell_other s _ (by omega) hx fun ⟨ey, ex⟩ => h (ey ▸ ex ▸ rfl)
  | _ => rfl

/-- A store leaves every location but its own and `STATUS` reading as before (`20_memory.md` R69). -/
theorem storeAt_valueAt_other (s : State) {l l' : Loc} (hl : l.inMap s.cfg) (hl' : l'.inMap s.cfg)
    (hne : l ≠ l') (hstatus : l' ≠ .status) (v : Word) : (s.storeAt l v).valueAt l' = s.valueAt l' := by
  cases l' with
  | status => exact absurd rfl hstatus
  | rsN => exact congrArg (BitVec.setWidth 32) (storeAt_rsN_other s hne v)
  | rsNsym => exact congrArg (BitVec.setWidth 32) (storeAt_rsNsym_other s hne v)
  | ffSize => exact congrArg (BitVec.setWidth 32) (storeAt_ffSize_other s hne v)
  | cw i =>
    have hi : i < 255 := hl'
    exact congrArg (BitVec.setWidth 32) (storeAt_cw_other s (by omega) hne v)
  | cell y x =>
    have hx := hl'.2.trans_le s.cfg.gridMax_le
    exact congrArg (BitVec.setWidth 32) (storeAt_cell_other s hl (by omega) hne v)
  | _ => rw [storeAt_frame]; rfl

/-- A store leaves what the host reads at every other offset but `STATUS`'s as before (`20_memory.md` R69). -/
theorem busRead_storeAt_other {s : State} {off off' : Offset} {l : Loc} (hl : locate s.cfg off = some l)
    (hne : off' ≠ off) (hstatus : off' ≠ 0x010) (v : Word) :
    (busRead off' ((s.storeAt l v).respond .completed)).response = (busRead off' s).response := by
  refine busRead_response_congr (storeAt_cfg s l v) fun l' hl' => ?_
  have hnel : l ≠ l' := by
    rintro rfl
    exact hne (locate_inj hl' hl)
  have hnestatus : l' ≠ .status := by
    rintro rfl
    exact hstatus (BitVec.eq_of_toNat_eq (inMap_of_locate hl').2)
  rw [State.valueAt_respond]
  exact storeAt_valueAt_other s (inMap_of_locate hl).1 (inMap_of_locate hl').1 hnel hnestatus v

/-! ### `STATUS` and `FF_LAST` as numbers -/

/-- `STATUS` as a number (`10_state.md` R23). -/
theorem statusWord_eq (st : Status) :
    statusWord st = BitVec.ofNat 32 ((codeBits st.code).toNat + 16 * (stageBits st.stage).toNat +
      128 * st.szero.toNat + 256 * (ffStateBits st.ffState).toNat) := by
  have hcode := (codeBits st.code).isLt
  have hstage := (stageBits st.stage).isLt
  have hszero := st.szero.toNat_le
  have hff := (ffStateBits st.ffState).isLt
  have hcodeField : ((codeBits st.code).setWidth 32).toNat = (codeBits st.code).toNat :=
    BitVec.toNat_setWidth_of_le (by decide)
  have hstageField : ((stageBits st.stage).setWidth 32).toNat = (stageBits st.stage).toNat :=
    BitVec.toNat_setWidth_of_le (by decide)
  have hszeroField : ((BitVec.ofBool st.szero).setWidth 32).toNat = st.szero.toNat :=
    (BitVec.toNat_setWidth_of_le (by decide)).trans (BitVec.toNat_ofBool _)
  have hffField : ((ffStateBits st.ffState).setWidth 32).toNat = (ffStateBits st.ffState).toNat :=
    BitVec.toNat_setWidth_of_le (by decide)
  have hlow := toNat_field_or ((stageBits st.stage).setWidth 32) ((codeBits st.code).setWidth 32) 4
    (by omega) (by omega)
  have hmiddle := toNat_field_or ((BitVec.ofBool st.szero).setWidth 32) _ 7 (hlow.trans_lt (by omega)) (by omega)
  apply BitVec.eq_of_toNat_eq
  rw [statusWord, BitVec.or_assoc, BitVec.or_assoc, toNat_field_or _ _ 8 (hmiddle.trans_lt (by omega)) (by omega),
    hmiddle, hlow, hcodeField, hstageField, hszeroField, hffField, BitVec.toNat_ofNat]
  omega

/-- `FF_LAST` as a number (`10_state.md` R36). -/
theorem lastCellWord_eq (l : LastCell) :
    lastCellWord l = BitVec.ofNat 32 (l.x.toNat + 256 * l.y.toNat + 65536 * l.valid.toNat) := by
  have hx := l.x.isLt
  have hy := l.y.isLt
  have hvalid := l.valid.toNat_le
  have hxField : (l.x.setWidth 32).toNat = l.x.toNat := BitVec.toNat_setWidth_of_le (by decide)
  have hyField : (l.y.setWidth 32).toNat = l.y.toNat := BitVec.toNat_setWidth_of_le (by decide)
  have hvalidField : ((BitVec.ofBool l.valid).setWidth 32).toNat = l.valid.toNat :=
    (BitVec.toNat_setWidth_of_le (by decide)).trans (BitVec.toNat_ofBool _)
  have hlow := toNat_field_or (l.y.setWidth 32) (l.x.setWidth 32) 8 (by omega) (by omega)
  apply BitVec.eq_of_toNat_eq
  rw [lastCellWord, BitVec.or_assoc, toNat_field_or _ _ 16 (hlow.trans_lt (by omega)) (by omega), hlow, hxField,
    hyField, hvalidField, BitVec.toNat_ofNat]
  omega

end Sys2Proof.Machine

namespace Sys2Proof.Proofs

open Sys2Proof.Machine Sys2Proof.Claims

/-! ### The claims' classes of offsets as locations of the map -/

theorem listedOffset_of_inMap {c : Config} {l : Loc} (hl : l.inMap c) : listedOffset c (offsetOf l) := by
  cases l with
  | cw i => exact .inr (.inl ⟨i, hl, rfl⟩)
  | syn j => exact .inr (.inr (.inl ⟨j, hl, rfl⟩))
  | lambda i => exact .inr (.inr (.inr (.inl ⟨i, hl, rfl⟩)))
  | errloc k => exact .inr (.inr (.inr (.inr (.inl ⟨k, hl, rfl⟩))))
  | errval k => exact .inr (.inr (.inr (.inr (.inr (.inl ⟨k, hl, rfl⟩)))))
  | cell y x => exact .inr (.inr (.inr (.inr (.inr (.inr ⟨y, x, hl.1, hl.2, rfl⟩)))))
  | _ => exact .inl (by decide)

/-- An offset that the table does not list has no location. -/
theorem locate_unlisted {c : Config} {off : Offset} (h : ¬ listedOffset c off.toNat) : locate c off = none := by
  refine Option.eq_none_iff_forall_ne_some.mpr fun l hl => h ?_
  obtain ⟨hmap, hoff⟩ := inMap_of_locate hl
  exact hoff ▸ listedOffset_of_inMap hmap

theorem readOnlyOffset_location {c : Config} {a : Nat} (h : readOnlyOffset c a) :
    ∃ l : Loc, l.inMap c ∧ a = offsetOf l ∧ writable l = false := by
  obtain h | ⟨j, hj, rfl⟩ | ⟨i, hi, rfl⟩ | ⟨k, hk, rfl⟩ | ⟨k, hk, rfl⟩ := h
  · have hscalar : a ∈
        [Loc.id, .cap0, .cap1, .status, .rsL, .rsErrcnt, .ffIdx, .ffCnt, .ffData, .ffLast].map offsetOf := h
    obtain ⟨l, hl, rfl⟩ := List.mem_map.mp hscalar
    have hreadOnly : writable l = false ∧ scalarAt (offsetOf l) = some l := by
      revert l; decide
    exact ⟨l, (scalarAt_eq_some hreadOnly.2 c).1, rfl, hreadOnly.1⟩
  · exact ⟨.syn j, hj, rfl, rfl⟩
  · exact ⟨.lambda i, hi, rfl, rfl⟩
  · exact ⟨.errloc k, hk, rfl, rfl⟩
  · exact ⟨.errval k, hk, rfl, rfl⟩

theorem rsWriteOffset_iff (c : Config) (off : Offset) :
    rsWriteOffset off.toNat ↔ ∃ l, locate c off = some l ∧ l.feedsRs = true := by
  constructor
  · rintro (h | h | ⟨i, hi, h⟩)
    · exact ⟨.rsN, locate_of_inMap trivial h, rfl⟩
    · exact ⟨.rsNsym, locate_of_inMap trivial h, rfl⟩
    · exact ⟨.cw i, locate_of_inMap hi h, rfl⟩
  · rintro ⟨l, hl, hfeeds⟩
    obtain ⟨hmap, hoff⟩ := inMap_of_locate hl
    cases l with
    | rsN => exact .inl hoff
    | rsNsym => exact .inr (.inl hoff)
    | cw i => exact .inr (.inr ⟨i, hmap, hoff⟩)
    | _ => cases hfeeds

theorem ffWriteOffset_iff (c : Config) (off : Offset) :
    ffWriteOffset c off.toNat ↔ ∃ l, locate c off = some l ∧ l.feedsFf = true := by
  constructor
  · rintro (h | ⟨y, x, hy, hx, h⟩)
    · exact ⟨.ffSize, locate_of_inMap trivial h, rfl⟩
    · exact ⟨.cell y x, locate_of_inMap ⟨hy, hx⟩ h, rfl⟩
  · rintro ⟨l, hl, hfeeds⟩
    obtain ⟨hmap, hoff⟩ := inMap_of_locate hl
    cases l with
    | ffSize => exact .inl hoff
    | cell y x => exact .inr ⟨y, x, hmap.1, hmap.2, hoff⟩
    | _ => cases hfeeds

/-! ### Misaligned, unlisted and read-only offsets -/

/-- Settles O11: no location has a misaligned offset. -/
theorem misalignedAccessIsBusError : Obligations.MisalignedAccessIsBusError :=
  fun _ _ _ _ hodd hq hpending => step_unmapped (locate_misaligned hodd) hq hpending

/-- Settles O12: an unlisted offset has no location, and the offset of a cell of the storage has that cell, which is
read and written. -/
theorem unlistedOffsetIsBusError : Obligations.UnlistedOffsetIsBusError := by
  intro s rest off q hq hpending
  refine ⟨fun hunlisted => step_unmapped (locate_unlisted hunlisted) hq hpending, fun y x hy hx hoff => ?_⟩
  have hcell : locate s.cfg off = some (.cell y x) := locate_of_inMap ⟨hy, hx⟩ hoff
  rw [step_cons hpending]
  obtain rfl | ⟨v, rfl⟩ := hq
  · refine ⟨_, congrArg Host.Outcome.next (busRead_mapped (s := { s with requests := rest }) hcell), ?_⟩
    simp
  · refine ⟨_, busWrite_store (s := { s with requests := rest }) hcell (by simp) rfl v, ?_⟩
    simp

/-- Settles O13: each read-only offset has a location that is not writable. -/
theorem readOnlyWriteIsBusError : Obligations.ReadOnlyWriteIsBusError := by
  intro s rest off v hreadOnly hpending
  obtain ⟨l, hl, hoff, hw⟩ := readOnlyOffset_location hreadOnly
  rw [step_cons hpending]
  exact busWrite_readOnly (s := { s with requests := rest }) (locate_of_inMap hl hoff) hw v

/-! ### Reads -/

/-- Settles O14: a read changes the answer only, which is no part of any location's value. -/
theorem readsHaveNoSideEffect : Obligations.ReadsHaveNoSideEffect := by
  intro s rest off hpending
  obtain ⟨r, hr, hstep⟩ := step_read hpending
  refine ⟨⟨r, hstep⟩, ?_⟩
  rintro rest' t u rfl ht hu
  obtain rfl := Host.Outcome.next.inj (hstep.symm.trans ht)
  obtain ⟨r', hr', hstep'⟩ := step_read (s := { s with requests := .read off :: rest', response := some r }) rfl
  obtain rfl := Host.Outcome.next.inj (hstep'.symm.trans hu)
  calc some r' = _ := hr'.symm
    _ = (busRead off s).response := busRead_response_congr rfl fun l _ => s.valueAt_port _ _ l
    _ = some r := hr

theorem readOf_offsetOf {s : State} {l : Loc} (hl : l.inMap s.cfg) :
    readOf s (offsetOf l) = some (.value (s.valueAt l)) := readOf_mapped (locate_offsetOf hl)

theorem readsNat_status (s : State) :
    readsNat s 0x010 ((codeBits s.status.code).toNat + 16 * (stageBits s.status.stage).toNat +
      128 * s.status.szero.toNat + 256 * (ffStateBits s.status.ffState).toNat) := by
  rw [readsNat, ← statusWord_eq]
  exact readOf_offsetOf (l := .status) trivial

theorem readsNat_ffLast (s : State) :
    readsNat s 0x034 (s.ffLast.x.toNat + 256 * s.ffLast.y.toNat + 65536 * s.ffLast.valid.toNat) := by
  rw [readsNat, ← lastCellWord_eq]
  exact readOf_offsetOf (l := .ffLast) trivial

/-- A write of a read-write location completes, and a read after it returns the field it stored. -/
theorem busWrite_then_reads {s : State} {l : Loc} (hl : l.inMap s.cfg) (hcmd : l ≠ .cmd) (hw : writable l = true)
    {v : Word} {k : Nat} {field : BitVec k} (hfield : (s.storeAt l v).valueAt l = field.setWidth 32) :
    ∃ t, busWrite (BitVec.ofNat 19 (offsetOf l)) v s = .next t ∧ t.response = some .completed ∧
      readsField t (offsetOf l) field := by
  refine ⟨_, busWrite_store (locate_offsetOf hl) hcmd hw v, rfl, ?_⟩
  rw [readsField, readOf_offsetOf (by simpa using hl), State.valueAt_respond, hfield]

/-- Settles O15: a read of each location is its value, a write stores the field's bits, and they are the value
after it. -/
theorem readsAndWritesUseTheFieldBits : Obligations.ReadsAndWritesUseTheFieldBits := by
  intro s
  refine ⟨⟨readOf_offsetOf (l := .rsN) trivial, readOf_offsetOf (l := .rsNsym) trivial,
    readOf_offsetOf (l := .rsL) trivial, readOf_offsetOf (l := .rsErrcnt) trivial,
    readOf_offsetOf (l := .ffSize) trivial, readOf_offsetOf (l := .ffIdx) trivial,
    readOf_offsetOf (l := .ffCnt) trivial, readOf_offsetOf (l := .ffData) trivial,
    readOf_offsetOf (l := .cmd) trivial, readsNat_status s, readsNat_ffLast s,
    fun i hi => readOf_offsetOf (l := .cw i) hi, fun j hj => readOf_offsetOf (l := .syn j) hj,
    fun i hi => readOf_offsetOf (l := .lambda i) hi, fun k hk => readOf_offsetOf (l := .errloc k) hk,
    fun k hk => readOf_offsetOf (l := .errval k) hk,
    fun y x hy hx => readOf_offsetOf (l := .cell y x) ⟨hy, hx⟩⟩, fun v => ⟨?bytes, ?cells⟩⟩
  case bytes =>
    rintro off (rfl | rfl | rfl | ⟨i, hi, rfl⟩)
    · exact busWrite_then_reads (l := .rsN) trivial (by simp) rfl rfl
    · exact busWrite_then_reads (l := .rsNsym) trivial (by simp) rfl rfl
    · exact busWrite_then_reads (l := .ffSize) trivial (by simp) rfl rfl
    · exact busWrite_then_reads (l := .cw i) hi (by simp) rfl
        (congrArg (BitVec.setWidth 32) (State.cw_setCw_same s i _))
  case cells =>
    intro y x hy hx
    exact busWrite_then_reads (l := .cell y x) ⟨hy, hx⟩ (by simp) rfl
      (congrArg (BitVec.setWidth 32) (State.cell_setCell_same s y x _))

/-! ### The effects of a write -/

/-- Settles O17: a write that is no `CMD` write either stores at a location, which fixes what it invalidates, or is a
bus error, and then its offset is in neither class. -/
theorem writeSideEffectsAreExactlyTheListedOnes : Obligations.WriteSideEffectsAreExactlyTheListedOnes := by
  refine ⟨fun s v => ⟨busWrite_cmd v s, readOf_offsetOf (l := .cmd) trivial⟩, ?_⟩
  intro s t off v hoff hwrite
  rw [rsWriteOffset_iff s.cfg, ffWriteOffset_iff]
  obtain ⟨hcmd, -⟩ | ⟨l, hl, hcmd, hw, hstore⟩ | ⟨hreadOnly, herror⟩ := busWrite_cases off v s
  · exact absurd (locate_inj hcmd (locate_cmd s.cfg)) hoff
  · obtain rfl := Host.Outcome.next.inj (hstore.symm.trans hwrite)
    refine ⟨?rs, ?ff, ?neither, fun _ hne hstatus => busRead_storeAt_other hl hne hstatus v, storeAt_cfg s l v,
      storeAt_requests s l v, storeAt_resets s l v⟩
    case rs =>
      rintro ⟨l', hl', hfeeds⟩
      obtain rfl := Option.some.inj (hl.symm.trans hl')
      exact storeAt_status_of_feedsRs s hfeeds v
    case ff =>
      rintro ⟨l', hl', hfeeds⟩
      obtain rfl := Option.some.inj (hl.symm.trans hl')
      exact storeAt_status_of_feedsFf s hfeeds v
    case neither =>
      intro hrs hff
      obtain h | hfeeds | hfeeds := (writable_iff l).mp hw
      · exact absurd h hcmd
      · exact absurd ⟨l, hl, hfeeds⟩ hrs
      · exact absurd ⟨l, hl, hfeeds⟩ hff
  · obtain rfl := Host.Outcome.next.inj (herror.symm.trans hwrite)
    have hclass : ∀ l, locate s.cfg off = some l → ¬ (l.feedsRs = true ∨ l.feedsFf = true) := fun l hl hfeeds =>
      Bool.false_ne_true ((hreadOnly l hl).symm.trans ((writable_iff l).mpr (.inr hfeeds)))
    exact ⟨fun ⟨l, hl, hfeeds⟩ => absurd (.inl hfeeds) (hclass l hl),
      fun ⟨l, hl, hfeeds⟩ => absurd (.inr hfeeds) (hclass l hl), fun _ _ => rfl,
      fun off' _ _ => busRead_response_congr rfl fun l' _ => s.valueAt_port _ _ l', rfl, rfl, rfl⟩

end Sys2Proof.Proofs
end

section
/-! PROOFS. Command words (`30_encoding.md` R90 to R95): the three fields determine a word, the decoder answers a
command exactly for that command's word, these words are the rows of R93's table, and the obligations O1 and O5. -/

namespace Sys2Proof

/-! ### The fields of a word (R91) -/

/-- The three fields, side by side, are the word. -/
theorem append_fields (w : Word) : rsvField w ++ argField w ++ opcField w = w := by
  refine BitVec.eq_of_getLsbD_eq fun k hk => ?_
  rw [BitVec.getLsbD_eq_getElem hk]
  simp only [rsvField, argField, opcField, BitVec.getElem_append, BitVec.getElem_extractLsb']
  split_ifs <;> congr 1 <;> omega

/-- A word is a command's word exactly when its fields are the command's. -/
theorem encode_eq_iff_fields (w : Word) (i : Instr) :
    encode i = w ↔ rsvField w = 0 ∧ argField w = argOf i ∧ opcField w = opcOf i := by
  obtain ⟨hopc, harg, hrsv⟩ := Laws.encodeFields_all i
  constructor
  · rintro rfl
    exact ⟨hrsv, harg, hopc⟩
  · rintro ⟨hrsv', harg', hopc'⟩
    rw [← append_fields (encode i), ← append_fields w, hrsv, harg, hopc, hrsv', harg', hopc']

/-! ### The decoder (R94) -/

/-- Only `FF_GET` has `OPC` 0x21 (R93). -/
theorem eq_ffGet_of_opcOf {i : Instr} (h : opcOf i = 0x21) : i = .ffGet (argOf i) := by
  cases i with
  | ffGet n => rfl
  | _ => exact absurd h (by decide)

/-- Every other command is well-formed and takes no argument (R92, R93). -/
theorem plain_of_opcOf {i : Instr} (h : opcOf i ≠ 0x21) : i.wellFormed = true ∧ argOf i = 0 := by
  cases i with
  | ffGet n => exact absurd rfl h
  | _ => exact ⟨rfl, rfl⟩

/-- The commands of R94's set are those of R93 other than `FF_GET`, each at its own `OPC`. -/
theorem plainCommand_eq_some_iff (opc : BitVec 8) (i : Instr) :
    plainCommand opc = some i ↔ opcOf i = opc ∧ opc ≠ 0x21 := by
  constructor
  · intro h
    unfold plainCommand at h
    split_ifs at h with hopc <;> cases h <;> subst opc <;> decide
  · rintro ⟨rfl, hne⟩
    cases i with
    | ffGet n => exact absurd rfl hne
    | _ => rfl

/-- The decoder answers well-formed commands only, each at its own word. -/
theorem encode_of_decode {w : Word} {i : Instr} (h : decode w = .ok i) : i.wellFormed = true ∧ encode i = w := by
  rw [encode_eq_iff_fields]
  unfold decode at h
  split at h
  next => cases h
  next hrsv =>
    split at h
    next hget =>
      split at h
      next hcount =>
        cases h
        exact ⟨hcount, not_not.mp hrsv, rfl, hget⟩
      next => cases h
    next =>
      split at h
      next j hplain =>
        split at h
        next harg =>
          cases h
          obtain ⟨hopc, hne⟩ := (plainCommand_eq_some_iff _ i).mp hplain
          obtain ⟨hwf, harg'⟩ := plain_of_opcOf (hopc ▸ hne)
          exact ⟨hwf, not_not.mp hrsv, harg.trans harg'.symm, hopc.symm⟩
        next => cases h
      next => cases h

/-- The word of a well-formed command decodes to it. -/
theorem decode_encode {i : Instr} (hwf : i.wellFormed = true) : decode (encode i) = .ok i := by
  obtain ⟨hrsv, harg, hopc⟩ := (encode_eq_iff_fields (encode i) i).mp rfl
  by_cases hget : opcOf i = 0x21
  · have hcount : legalCount (argOf i) = true := by rwa [eq_ffGet_of_opcOf hget] at hwf
    simp [decode, hrsv, harg, hopc, hget, hcount, ← eq_ffGet_of_opcOf hget]
  · have hplain := (plainCommand_eq_some_iff (opcOf i) i).mpr ⟨rfl, hget⟩
    rw [decode, hrsv, harg, hopc, if_neg (by decide), if_neg hget, hplain]
    exact if_pos (plain_of_opcOf hget).2

end Sys2Proof

namespace Sys2Proof.Proofs

open Sys2Proof.Machine Sys2Proof.Claims

/-! ### The table (R93) -/

/-- Every well-formed command has the row of its word: `FF_GET` one for each of its eight counts. -/
theorem mem_commandTable_of_wellFormed {i : Instr} (hwf : i.wellFormed = true) : (encode i, i) ∈ commandTable := by
  cases i with
  | ffGet n =>
    have hcounts : ∀ n, legalCount n = true → (encode (.ffGet n), .ffGet n) ∈ commandTable := by decide
    exact hcounts n hwf
  | _ => decide

/-- Each row of the table is a well-formed command at its word. -/
theorem wellFormed_of_mem_commandTable {w : Word} {i : Instr} (h : (w, i) ∈ commandTable) :
    i.wellFormed = true ∧ encode i = w := by
  have hrows : ∀ row ∈ commandTable, row.2.wellFormed = true ∧ encode row.2 = row.1 := by decide
  exact hrows (w, i) h

/-- The decoder answers the command of a row for the row's word, and nothing else. -/
theorem decode_eq_ok_iff_mem (w : Word) (i : Instr) : decode w = .ok i ↔ (w, i) ∈ commandTable := by
  constructor
  · intro h
    obtain ⟨hwf, rfl⟩ := encode_of_decode h
    exact mem_commandTable_of_wellFormed hwf
  · intro h
    obtain ⟨hwf, rfl⟩ := wellFormed_of_mem_commandTable h
    exact decode_encode hwf

/-- A word without a row is illegal. -/
theorem decode_error_of_not_mem {w : Word} (h : ∀ i, (w, i) ∉ commandTable) : ∃ e, decode w = .error e := by
  cases hdecode : decode w with
  | error e => exact ⟨e, rfl⟩
  | ok i => exact absurd ((decode_eq_ok_iff_mem w i).mp hdecode) (h i)

/-! ### The obligations -/

/-- Settles O1: a row found for the word is what the decoder answers, and where no row is found the decoder answers
no command, since each of its answers is a row. -/
theorem everyWordDecodesAsTheCommandTable : Obligations.EveryWordDecodesAsTheCommandTable := by
  intro w
  cases hfind : commandTable.find? fun row => row.1 == w with
  | some row =>
    obtain rfl : row.1 = w := beq_iff_eq.mp (List.find?_some (p := fun row : Word × Instr => row.1 == w) hfind)
    rw [(decode_eq_ok_iff_mem row.1 row.2).mpr (List.mem_of_find?_eq_some hfind)]
    rfl
  | none =>
    have hnone := List.find?_eq_none.mp hfind
    obtain ⟨e, herror⟩ := decode_error_of_not_mem fun i hrow => hnone (w, i) hrow (beq_self_eq_true w)
    rw [herror]
    rfl

/-- Settles O5: the step serves the write to `CMD`, which issues the word, and a word that does not decode ends in
`done(ERR_CMD)`. -/
theorem illegalWordOnlySetsErrCmd : Obligations.IllegalWordOnlySetsErrCmd := by
  intro s rest w hpending hillegal
  obtain ⟨e, herror⟩ := decode_error_of_not_mem fun i hrow => hillegal (List.mem_map_of_mem hrow)
  calc step s = busWrite cmdOffset w { s with requests := rest } := step_cons hpending
    _ = issue w ({ s with requests := rest }.respond .completed) := busWrite_cmd w _
    _ = .next (({ s with requests := rest }.respond .completed).done .errCmd) := issue_error herror _
    _ = .next (onlyCode { s with requests := rest, response := some .completed } .errCmd) := rfl

end Sys2Proof.Proofs
end

section
/-! PROOFS. The bytes with `gf_add` and `gf_mul` as a ring (`40_gf256.md` R111, R112), for every polynomial with bit 8
set. One turn of `gf_mul`'s loop multiplies by `z`; the loop is linear in its first operand and commutes with the
multiplication by `z`, so products by two bytes commute, and with `gf_mul(1, b) = b` all laws follow. -/

namespace Sys2Proof.Machine

variable {poly : BitVec 9}

theorem xor_xor_xor_comm (a b d e : Byte) : (a ^^^ b) ^^^ (d ^^^ e) = (a ^^^ d) ^^^ (b ^^^ e) := by ac_rfl

/-! ### Multiplication by `z` -/

/-- `a * z` reduced: one shift of R112's loop, within a byte. Tied to the loop by `shift_reduce_eq_timesZ`. -/
def timesZ (poly : BitVec 9) (a : Byte) : Byte :=
  a <<< 1 ^^^ if a.getLsbD 7 then poly.setWidth 8 else 0

theorem timesZ_eq (poly : BitVec 9) (a : Byte) :
    timesZ poly a = a <<< 1 ^^^ if a.getLsbD 7 then poly.setWidth 8 else 0 := rfl

theorem timesZ_zero (poly : BitVec 9) : timesZ poly 0 = 0 := by
  rw [timesZ_eq]
  simp

theorem timesZ_xor (poly : BitVec 9) (a b : Byte) : timesZ poly (a ^^^ b) = timesZ poly a ^^^ timesZ poly b := by
  have hcarry : (if (a ^^^ b).getLsbD 7 then poly.setWidth 8 else 0) =
      (if a.getLsbD 7 then poly.setWidth 8 else 0) ^^^ (if b.getLsbD 7 then poly.setWidth 8 else 0) := by
    rw [BitVec.getLsbD_xor]
    cases a.getLsbD 7 <;> cases b.getLsbD 7 <;> simp
  rw [timesZ_eq, hcarry, BitVec.shiftLeft_xor_distrib, xor_xor_xor_comm, timesZ_eq, timesZ_eq]

theorem timesZ_one_shiftLeft {i : Nat} (hi : i < 7) : timesZ poly (1#8 <<< i) = 1#8 <<< (i + 1) := by
  have hcarry : (1#8 <<< i).getLsbD 7 = false := by
    rw [BitVec.getLsbD_shiftLeft, BitVec.getLsbD_one]
    simp
    omega
  rw [timesZ_eq, hcarry, ← BitVec.shiftLeft_add]
  simp

/-! ### The loop of `gf_mul` -/

/-- `a` times the `k` low bits of `b`: the loop with `k` turns to go and nothing collected yet. -/
def mulLow (poly : BitVec 9) (k : Nat) (a b : Byte) : Byte := gfMulLoop poly k (a.setWidth 9) b 0

theorem mulLow_eq (poly : BitVec 9) (k : Nat) (a b : Byte) :
    mulLow poly k a b = gfMulLoop poly k (a.setWidth 9) b 0 := rfl

theorem gfMul_eq_mulLow (poly : BitVec 9) (a b : Byte) : gfMul poly a b = mulLow poly 8 a b := rfl

theorem mulLow_zero (poly : BitVec 9) (a b : Byte) : mulLow poly 0 a b = 0 := rfl

theorem zero_mulLow (poly : BitVec 9) (k : Nat) (b : Byte) : mulLow poly k 0 b = 0 :=
  gfMulLoop_zero_left poly k b 0

theorem mulLow_zero_right (poly : BitVec 9) (k : Nat) (a : Byte) : mulLow poly k a 0 = 0 :=
  gfMulLoop_zero_right poly k _ 0

theorem lowBit_xor_shift (b : Byte) : (if b.getLsbD 0 then 1#8 else 0#8) ^^^ b >>> 1 <<< 1 = b := by
  refine BitVec.eq_of_getLsbD_eq fun i hi => ?_
  rw [BitVec.getLsbD_xor, BitVec.getLsbD_shiftLeft, BitVec.getLsbD_ushiftRight]
  cases i with
  | zero => cases b.getLsbD 0 <;> rfl
  | succ i =>
    have hupper : (if b.getLsbD 0 then 1#8 else 0#8).getLsbD (i + 1) = false := by
      split_ifs
      · rw [BitVec.getLsbD_one, decide_eq_false i.succ_ne_zero, Bool.and_false]
      · exact BitVec.getLsbD_zero
    rw [hupper, Bool.false_xor, decide_eq_true hi, decide_eq_false (by omega : ¬ i + 1 < 1), Nat.add_sub_cancel,
      Nat.add_comm 1 i]
    rfl

section Monic

variable (hp : poly.getLsbD 8 = true)
include hp

/-- The 9-bit shift of R112, reduced where it reaches bit 8, fits a byte again. -/
theorem shift_reduce_eq_timesZ (a : Byte) :
    (if (a.setWidth 9 <<< 1).getLsbD 8 then a.setWidth 9 <<< 1 ^^^ poly else a.setWidth 9 <<< 1) =
      (timesZ poly a).setWidth 9 := by
  have hcarry : (a.setWidth 9 <<< 1).getLsbD 8 = a.getLsbD 7 := by simp
  rw [hcarry, timesZ_eq]
  refine BitVec.eq_of_getLsbD_eq fun i hi => ?_
  obtain rfl | hi' : i = 8 ∨ i < 8 := by omega
  · split_ifs with h <;> simp_all
  · split_ifs with h <;>
      simp [hi, hi', BitVec.getLsbD_setWidth, BitVec.getLsbD_shiftLeft, -BitVec.getLsbD_eq_getElem,
        show i - 1 < 9 by omega]

/-- One turn of the loop. -/
theorem mulLow_succ (k : Nat) (a b : Byte) :
    mulLow poly (k + 1) a b = (if b.getLsbD 0 then a else 0) ^^^ mulLow poly k (timesZ poly a) (b >>> 1) := by
  rw [mulLow_eq, gfMulLoop, gfMulLoop_start, shift_reduce_eq_timesZ hp, mulLow_eq]
  simp

theorem mulLow_xor_left (k : Nat) (a a' b : Byte) :
    mulLow poly k (a ^^^ a') b = mulLow poly k a b ^^^ mulLow poly k a' b := by
  induction k generalizing a a' b with
  | zero => exact BitVec.xor_self.symm
  | succ k ih =>
    rw [mulLow_succ hp, mulLow_succ hp, mulLow_succ hp, timesZ_xor, ih]
    split_ifs
    · exact xor_xor_xor_comm ..
    · simp

theorem mulLow_timesZ (k : Nat) (a b : Byte) : mulLow poly k (timesZ poly a) b = timesZ poly (mulLow poly k a b) := by
  induction k generalizing a b with
  | zero => exact (timesZ_zero poly).symm
  | succ k ih =>
    rw [mulLow_succ hp, mulLow_succ hp, timesZ_xor, ih]
    split_ifs
    · rfl
    · rw [timesZ_zero]

/-- Products by two bytes commute, because each commutes with the multiplication by `z`. -/
theorem mulLow_right_comm (k l : Nat) (a b d : Byte) :
    mulLow poly k (mulLow poly l a d) b = mulLow poly l (mulLow poly k a b) d := by
  induction k generalizing a b with
  | zero => exact (zero_mulLow poly l d).symm
  | succ k ih =>
    rw [mulLow_succ hp, mulLow_succ hp, ← mulLow_timesZ hp, ih, mulLow_xor_left hp]
    split_ifs
    · rfl
    · rw [zero_mulLow]

/-- The remaining turns shift a lone bit up to the end of the byte without a reduction. -/
theorem mulLow_one_shiftLeft {k i : Nat} (h : k + i = 8) (b : Byte) : mulLow poly k (1#8 <<< i) b = b <<< i := by
  induction k generalizing i b with
  | zero =>
    obtain rfl : i = 8 := by omega
    exact (BitVec.shiftLeft_eq_zero (by decide)).symm
  | succ k ih =>
    have hshift : mulLow poly k (timesZ poly (1#8 <<< i)) (b >>> 1) = mulLow poly k (1#8 <<< (i + 1)) (b >>> 1) := by
      obtain rfl | hi : k = 0 ∨ i < 7 := by omega
      · rfl
      · rw [timesZ_one_shiftLeft hi]
    calc mulLow poly (k + 1) (1#8 <<< i) b
        = (if b.getLsbD 0 then 1#8 <<< i else 0) ^^^ (b >>> 1) <<< (i + 1) := by
          rw [mulLow_succ hp, hshift, ih (by omega)]
      _ = ((if b.getLsbD 0 then 1#8 else 0#8) ^^^ b >>> 1 <<< 1) <<< i := by
          rw [BitVec.shiftLeft_xor_distrib, ← BitVec.shiftLeft_add, Nat.add_comm 1 i]
          split_ifs
          · rfl
          · rw [BitVec.zero_shiftLeft]
            rfl
      _ = b <<< i := by rw [lowBit_xor_shift]

/-! ### The laws -/

theorem gfMul_right_comm (a b d : Byte) : gfMul poly (gfMul poly a b) d = gfMul poly (gfMul poly a d) b :=
  mulLow_right_comm hp 8 8 a d b

theorem gfMul_one (a : Byte) : gfMul poly a 1 = a := by
  rw [gfMul_eq_mulLow, mulLow_succ hp, show (1 : Byte) >>> 1 = 0 from rfl, mulLow_zero_right]
  simp

theorem one_gfMul (b : Byte) : gfMul poly 1 b = b := by
  rw [gfMul_eq_mulLow]
  simpa using mulLow_one_shiftLeft (k := 8) (i := 0) hp rfl b

theorem gfMul_comm (a b : Byte) : gfMul poly a b = gfMul poly b a :=
  calc gfMul poly a b = gfMul poly (gfMul poly 1 a) b := by rw [one_gfMul hp]
    _ = gfMul poly (gfMul poly 1 b) a := gfMul_right_comm hp 1 a b
    _ = gfMul poly b a := by rw [one_gfMul hp]

theorem gfMul_assoc (a b d : Byte) : gfMul poly (gfMul poly a b) d = gfMul poly a (gfMul poly b d) := by
  rw [gfMul_comm hp a b, gfMul_right_comm hp, gfMul_comm hp]

theorem xor_gfMul (a b d : Byte) : gfMul poly (a ^^^ b) d = gfMul poly a d ^^^ gfMul poly b d :=
  mulLow_xor_left hp 8 a b d

theorem gfMul_xor (a b d : Byte) : gfMul poly a (b ^^^ d) = gfMul poly a b ^^^ gfMul poly a d := by
  rw [gfMul_comm hp, xor_gfMul hp, gfMul_comm hp b, gfMul_comm hp d]

theorem gfMul_alpha (a : Byte) : gfMul poly a alpha = timesZ poly a := by
  rw [gfMul_eq_mulLow, mulLow_succ hp, mulLow_succ hp, show alpha >>> 1 >>> 1 = 0 from rfl, mulLow_zero_right]
  simp [show alpha = 2#8 from rfl]

/-! ### The ring -/

omit hp in
/-- The bytes under a name of their own, so that the ring of the field polynomial is not taken for the arithmetic of
`BitVec 8`. -/
def Gf (_poly : BitVec 9) : Type := Byte

/-- `gf_add` and `gf_mul` as a commutative ring, whose powers are `gfPow`. -/
@[reducible] def gfRing : CommRing (Gf poly) where
  zero := (0 : Byte)
  one := (1 : Byte)
  add := gfAdd
  mul := gfMul poly
  neg a := a
  npow n a := gfPow poly a n
  nsmul := @nsmulRec (Gf poly) ⟨(0 : Byte)⟩ ⟨gfAdd⟩
  zsmul := @zsmulRec (Gf poly) ⟨(0 : Byte)⟩ ⟨gfAdd⟩ ⟨id⟩ (@nsmulRec (Gf poly) ⟨(0 : Byte)⟩ ⟨gfAdd⟩)
  add_assoc := BitVec.xor_assoc
  zero_add _ := BitVec.zero_xor
  add_zero _ := BitVec.xor_zero
  add_comm := BitVec.xor_comm
  neg_add_cancel _ := BitVec.xor_self
  mul_assoc := gfMul_assoc hp
  one_mul := one_gfMul hp
  mul_one := gfMul_one hp
  mul_comm := gfMul_comm hp
  zero_mul := zero_gfMul poly
  mul_zero := gfMul_zero poly
  left_distrib := gfMul_xor hp
  right_distrib := xor_gfMul hp

omit hp in
theorem gfInv_eq (a : Byte) : gfInv poly a = gfPow poly a 254 := rfl

omit hp in
theorem gfExp_eq (e : Int) : gfExp poly e = gfPow poly alpha (e % 255).toNat := rfl

theorem gfPow_one (a : Byte) : gfPow poly a 1 = a := one_gfMul hp a

theorem gfPow_add (a : Byte) (m n : Nat) : gfPow poly a (m + n) = gfMul poly (gfPow poly a m) (gfPow poly a n) :=
  let _ := gfRing hp
  pow_add (M := Gf poly) a m n

theorem gfPow_mul (a : Byte) (m n : Nat) : gfPow poly a (m * n) = gfPow poly (gfPow poly a m) n :=
  let _ := gfRing hp
  pow_mul (M := Gf poly) a m n

theorem one_gfPow (n : Nat) : gfPow poly 1 n = 1 :=
  let _ := gfRing hp
  one_pow (M := Gf poly) n

end Monic

/-- The sixteen polynomials of `00_scope.md` R6 have degree 8. -/
theorem getLsbD_of_legal (h : poly ∈ legalPolynomials) : poly.getLsbD 8 = true := by
  have hall : legalPolynomials.all (fun p => p.getLsbD 8) = true := rfl
  exact List.all_eq_true.mp hall poly h

end Sys2Proof.Machine
end

section
/-! PROOFS. `gf_mul` and the carry-less product (`40_gf256.md` R112): each turn of the loop keeps the two products a
multiple of the polynomial apart. The obligation O21. -/

namespace Sys2Proof.Proofs

open Sys2Proof.Machine Sys2Proof.Claims

/-! ### The carry-less product -/

theorem clmul_zero (a b : Nat) : clmul a b 0 = 0 := rfl

theorem clmul_succ (a b k : Nat) : clmul a b (k + 1) = clmul a b k ^^^ (if b.testBit k then a <<< k else 0) := rfl

theorem clmul_zero_right (a k : Nat) : clmul a 0 k = 0 := by
  induction k with
  | zero => rfl
  | succ k ih => rw [clmul_succ, ih, Nat.zero_testBit, if_neg Bool.false_ne_true, Nat.xor_zero]

theorem clmul_shiftLeft (a b n k : Nat) : clmul (a <<< n) b k = clmul a b k <<< n := by
  induction k with
  | zero => exact (Nat.zero_shiftLeft n).symm
  | succ k ih =>
    rw [clmul_succ, clmul_succ, ih, Nat.shiftLeft_xor_distrib, ← Nat.shiftLeft_add, Nat.add_comm, Nat.shiftLeft_add]
    split_ifs
    · rfl
    · rw [Nat.zero_shiftLeft]

/-- The product from the low bit of `b` on, the order of R112's loop. -/
theorem clmul_succ_low (a b k : Nat) :
    clmul a b (k + 1) = (if b.testBit 0 then a else 0) ^^^ clmul (a <<< 1) (b / 2) k := by
  induction k with
  | zero => rw [clmul_succ, clmul_zero, clmul_zero, Nat.zero_xor, Nat.xor_zero, Nat.shiftLeft_zero]
  | succ k ih =>
    rw [clmul_succ, ih, clmul_succ, Nat.testBit_div_two, ← Nat.shiftLeft_add, Nat.add_comm 1 k, Nat.xor_assoc]

theorem clmul_xor_right (a b b' k : Nat) : clmul a (b ^^^ b') k = clmul a b k ^^^ clmul a b' k := by
  induction k with
  | zero => exact (Nat.xor_self 0).symm
  | succ k ih =>
    rw [clmul_succ, clmul_succ, clmul_succ, ih, Nat.testBit_xor]
    cases b.testBit k <;> cases b'.testBit k <;> simp [Nat.xor_assoc, Nat.xor_comm, Nat.xor_left_comm]

theorem nat_xor_xor_xor_comm (a b d e : Nat) : (a ^^^ b) ^^^ (d ^^^ e) = (a ^^^ d) ^^^ (b ^^^ e) := by ac_rfl

/-! ### Multiples of the field polynomial -/

variable {poly : BitVec 9} {j k m m' : Nat}

/-- `m` is a carry-less multiple of the polynomial, with a quotient of at most `k` bits. -/
def IsMultiple (poly : BitVec 9) (k m : Nat) : Prop := ∃ q < 2 ^ k, m = clmul poly.toNat q 8

theorem isMultiple_zero (poly : BitVec 9) (k : Nat) : IsMultiple poly k 0 :=
  ⟨0, Nat.two_pow_pos k, (clmul_zero_right poly.toNat 8).symm⟩

theorem isMultiple_poly (poly : BitVec 9) (k : Nat) : IsMultiple poly (k + 1) poly.toNat :=
  ⟨1, Nat.one_lt_two_pow k.succ_ne_zero, by
    rw [clmul_succ_low _ _ 7, clmul_zero_right, Nat.xor_zero]
    rfl⟩

theorem IsMultiple.mono (h : IsMultiple poly j m) (hjk : j ≤ k) : IsMultiple poly k m := by
  obtain ⟨q, hq, rfl⟩ := h
  exact ⟨q, hq.trans_le (Nat.pow_le_pow_right (by decide) hjk), rfl⟩

theorem IsMultiple.xor (h : IsMultiple poly k m) (h' : IsMultiple poly k m') : IsMultiple poly k (m ^^^ m') := by
  obtain ⟨q, hq, rfl⟩ := h
  obtain ⟨q', hq', rfl⟩ := h'
  exact ⟨q ^^^ q', Nat.xor_lt_two_pow hq hq', (clmul_xor_right ..).symm⟩

theorem IsMultiple.shiftLeft (h : IsMultiple poly k m) (hk : k < 8) : IsMultiple poly (k + 1) (m <<< 1) := by
  obtain ⟨q, hq, rfl⟩ := h
  have hq' : 2 * q < 2 ^ (k + 1) := by rw [pow_succ]; omega
  have htop : (2 * q).testBit 8 = false :=
    Nat.testBit_lt_two_pow (hq'.trans_le (Nat.pow_le_pow_right (by decide) (by omega)))
  refine ⟨2 * q, hq', ?_⟩
  have hlow : (2 * q).testBit 0 = false := by simp
  calc clmul poly.toNat q 8 <<< 1 = clmul poly.toNat (2 * q) 9 := by
        rw [clmul_succ_low _ _ 8, hlow, if_neg Bool.false_ne_true, Nat.zero_xor, clmul_shiftLeft,
          Nat.mul_div_cancel_left q (by decide)]
    _ = clmul poly.toNat (2 * q) 8 := by rw [clmul_succ, htop, if_neg Bool.false_ne_true, Nat.xor_zero]

/-! ### The loop's invariant -/

section Monic

variable (hp : poly.getLsbD 8 = true)
include hp

/-- `timesZ` takes the polynomial from the shifted number exactly where bit 8 is reached. -/
theorem toNat_shiftLeft_one (a : Byte) :
    a.toNat <<< 1 = (if a.getLsbD 7 then poly.toNat else 0) ^^^ (timesZ poly a).toNat := by
  have hshift : (a.setWidth 9 <<< 1).toNat = a.toNat <<< 1 := by
    have := a.isLt
    simp [Nat.shiftLeft_eq]
    omega
  have hcarry : (a.setWidth 9 <<< 1).getLsbD 8 = a.getLsbD 7 := by simp
  have htimes : (timesZ poly a).toNat = ((timesZ poly a).setWidth 9).toNat :=
    (BitVec.toNat_setWidth_of_le (by decide)).symm
  rw [htimes, ← shift_reduce_eq_timesZ hp, hcarry]
  split_ifs
  · rw [BitVec.toNat_xor, hshift, Nat.xor_comm, Nat.xor_assoc, Nat.xor_self, Nat.xor_zero]
  · rw [hshift, Nat.zero_xor]

theorem IsMultiple.shift_timesZ {r : Byte} (hk : k < 8) (h : IsMultiple poly k (m ^^^ r.toNat)) :
    IsMultiple poly (k + 1) (m <<< 1 ^^^ (timesZ poly r).toNat) := by
  have hcarry : IsMultiple poly (k + 1) (if r.getLsbD 7 then poly.toNat else 0) := by
    split_ifs
    · exact isMultiple_poly poly k
    · exact isMultiple_zero poly _
  have hsum := (h.shiftLeft hk).xor hcarry
  rwa [Nat.shiftLeft_xor_distrib, toNat_shiftLeft_one hp, Nat.xor_assoc, Nat.xor_right_comm, Nat.xor_self,
    Nat.zero_xor] at hsum

/-- The invariant: when the carry-less factor `m` and the reduced factor `r` are a multiple apart, so are the
products that the remaining turns collect. -/
theorem isMultiple_clmul_xor_mulLow {r : Byte} (hjk : j + k ≤ 8) (h : IsMultiple poly j (m ^^^ r.toNat)) (b : Byte) :
    IsMultiple poly (j + k) (clmul m b.toNat k ^^^ (mulLow poly k r b).toNat) := by
  induction k generalizing j m r b with
  | zero =>
    change IsMultiple poly j (0 ^^^ 0)
    rw [Nat.xor_self]
    exact isMultiple_zero poly j
  | succ k ih =>
    have hturn : IsMultiple poly j
        ((if b.toNat.testBit 0 then m else 0) ^^^ (if b.getLsbD 0 then r else 0).toNat) := by
      rw [BitVec.testBit_toNat]
      split_ifs
      · exact h
      · exact isMultiple_zero poly j
    have hrest := ih (by omega) (h.shift_timesZ hp (by omega)) (b >>> 1)
    have hsum := (hturn.mono (by omega)).xor hrest
    rw [clmul_succ_low, mulLow_succ hp, BitVec.toNat_xor, nat_xor_xor_xor_comm, ← Nat.add_assoc, Nat.add_right_comm]
    rwa [BitVec.toNat_ushiftRight, Nat.shiftRight_one] at hsum

/-- `gf_mul` is the carry-less product less a multiple of the polynomial (R112). -/
theorem clmul_eq_multiple_xor_gfMul (a b : Byte) :
    ∃ q, q < 256 ∧ clmul a.toNat b.toNat 8 = clmul poly.toNat q 8 ^^^ (gfMul poly a b).toNat := by
  have hstart : IsMultiple poly 0 (a.toNat ^^^ a.toNat) := by
    rw [Nat.xor_self]
    exact isMultiple_zero poly 0
  obtain ⟨q, hq, heq⟩ := isMultiple_clmul_xor_mulLow hp (k := 8) (by decide) hstart b
  exact ⟨q, hq, by rw [← heq, gfMul_eq_mulLow, Nat.xor_assoc, Nat.xor_self, Nat.xor_zero]⟩

end Monic

/-- Settles O21: the loop's invariant after its eight turns, the products with 0 and 1, and the rule's five values. -/
theorem fieldProductIsReducedPolynomialProduct : Obligations.FieldProductIsReducedPolynomialProduct := by
  refine ⟨fun c a b => ?product, fun c a => ?units, rfl, rfl, rfl, rfl, rfl⟩
  case product => exact clmul_eq_multiple_xor_gfMul (getLsbD_of_legal c.primPoly_legal) a b
  case units => exact ⟨gfMul_zero _ a, zero_gfMul _ a, gfMul_one (getLsbD_of_legal c.primPoly_legal) a⟩

end Sys2Proof.Proofs
end

section
/-! PROOFS. The powers of `alpha` for all candidates of degree 8 at once (`40_gf256.md` R116). 256 bytes, one for each
candidate, are kept as eight numbers of 256 places: number `i` has bit `i` of every byte. One multiplication by `z` is
then a few operations on numbers, and a short evaluation tells the powers of `alpha` for every candidate. -/

namespace Sys2Proof.Machine

/-! ### The candidates -/

/-- The polynomial of degree 8 with low byte `b`. -/
def candidate (b : Byte) : BitVec 9 := 1#1 ++ b

theorem getLsbD_candidate_of_lt (b : Byte) {i : Nat} (hi : i < 8) : (candidate b).getLsbD i = b.getLsbD i := by
  change (1#1 ++ b).getLsbD i = b.getLsbD i
  rw [BitVec.getLsbD_append, if_pos hi]

theorem getLsbD_candidate (b : Byte) : (candidate b).getLsbD 8 = true := by
  change (1#1 ++ b).getLsbD 8 = true
  rw [BitVec.getLsbD_append]
  rfl

theorem candidate_setWidth {poly : BitVec 9} (hp : poly.getLsbD 8 = true) : candidate (poly.setWidth 8) = poly := by
  refine BitVec.eq_of_getLsbD_eq fun i hi => ?_
  obtain rfl | hi' : i = 8 ∨ i < 8 := by omega
  · rw [getLsbD_candidate, hp]
  · rw [getLsbD_candidate_of_lt _ hi', BitVec.getLsbD_setWidth]
    simp [hi']

theorem toNat_candidate (b : Byte) : (candidate b).toNat = 256 + b.toNat := by
  change (1#1 ++ b).toNat = 256 + b.toNat
  rw [BitVec.toNat_append, ← Nat.shiftLeft_add_eq_or_of_lt b.isLt]
  rfl

theorem getLsbD_timesZ (poly : BitVec 9) (a : Byte) {i : Nat} (hi : i < 8) :
    (timesZ poly a).getLsbD i = ((decide (i ≠ 0) && a.getLsbD (i - 1)) ^^ (a.getLsbD 7 && poly.getLsbD i)) := by
  rw [timesZ_eq, BitVec.getLsbD_xor, BitVec.getLsbD_shiftLeft]
  cases i with
  | zero => cases a.getLsbD 7 <;> simp
  | succ i => cases a.getLsbD 7 <;> simp [hi]

/-! ### The places whose number has a given bit -/

/-- Among the places below `2 ^ k`, those whose number has bit `i`: twice the smaller pattern, and for the top bit the
upper half. -/
def placesWithBit : Nat → Nat → Nat
  | 0, _ => 0
  | k + 1, i => placesWithBit k i ||| (if i = k then 2 ^ 2 ^ k - 1 else placesWithBit k i) <<< 2 ^ k

theorem placesWithBit_succ (k i : Nat) :
    placesWithBit (k + 1) i =
      placesWithBit k i ||| (if i = k then 2 ^ 2 ^ k - 1 else placesWithBit k i) <<< 2 ^ k := rfl

theorem placesWithBit_lt (k i : Nat) : placesWithBit k i < 2 ^ 2 ^ k := by
  induction k with
  | zero => exact Nat.two_pow_pos _
  | succ k ih =>
    have hupper : (if i = k then 2 ^ 2 ^ k - 1 else placesWithBit k i) < 2 ^ 2 ^ k := by
      split_ifs
      · exact Nat.sub_lt (Nat.two_pow_pos _) Nat.one_pos
      · exact ih
    rw [placesWithBit_succ, Nat.pow_succ 2 k, Nat.mul_two]
    exact Nat.or_lt_two_pow (ih.trans_le (Nat.pow_le_pow_right (by decide) (Nat.le_add_right ..)))
      (Nat.shiftLeft_lt hupper)

theorem testBit_placesWithBit {k n : Nat} (hn : n < 2 ^ k) (i : Nat) :
    (placesWithBit k i).testBit n = n.testBit i := by
  induction k generalizing n with
  | zero =>
    obtain rfl : n = 0 := Nat.lt_one_iff.mp hn
    rw [show placesWithBit 0 i = 0 from rfl, Nat.zero_testBit, Nat.zero_testBit]
  | succ k ih =>
    rw [placesWithBit_succ, Nat.testBit_or, Nat.testBit_shiftLeft]
    obtain hlow | hhigh := Nat.lt_or_ge n (2 ^ k)
    · rw [ih hlow, decide_eq_false (Nat.not_le.mpr hlow), Bool.false_and, Bool.or_false]
    · obtain ⟨m, rfl⟩ := Nat.exists_eq_add_of_le hhigh
      have hm : m < 2 ^ k := by rw [Nat.pow_succ] at hn; omega
      have hbelow : (placesWithBit k i).testBit (2 ^ k + m) = false :=
        Nat.testBit_lt_two_pow ((placesWithBit_lt k i).trans_le
          (Nat.pow_le_pow_right (by decide) (Nat.le_add_right ..)))
      rw [hbelow, Bool.false_or, decide_eq_true (Nat.le_add_right ..), Bool.true_and, Nat.add_sub_cancel_left]
      obtain hik | rfl | hki := Nat.lt_trichotomy i k
      · rw [if_neg hik.ne, ih hm, Nat.testBit_two_pow_add_gt hik]
      · rw [if_pos rfl, Nat.testBit_two_pow_sub_one, Nat.testBit_two_pow_add_eq, Nat.testBit_lt_two_pow hm]
        simp [hm]
      · have hle : 2 ^ (k + 1) ≤ 2 ^ i := Nat.pow_le_pow_right (by decide) hki
        rw [if_neg hki.ne', ih hm, Nat.testBit_lt_two_pow (hn.trans_le hle),
          Nat.testBit_lt_two_pow (by omega : m < 2 ^ i)]

/-- The 256 places. -/
def allPlaces : Nat := 0xFFFFFFFFFFFFFFFFFFFFFFFFFFFFFFFFFFFFFFFFFFFFFFFFFFFFFFFFFFFFFFFF

theorem testBit_allPlaces (b : Byte) : allPlaces.testBit b.toNat = true := by
  rw [show allPlaces = 2 ^ 256 - 1 from rfl, Nat.testBit_two_pow_sub_one]
  exact decide_eq_true b.isLt

/-- `placesWithBit` for bytes, written out for the evaluation. -/
def bitPlaces : Nat → Nat
  | 0 => 0xAAAAAAAAAAAAAAAAAAAAAAAAAAAAAAAAAAAAAAAAAAAAAAAAAAAAAAAAAAAAAAAA
  | 1 => 0xCCCCCCCCCCCCCCCCCCCCCCCCCCCCCCCCCCCCCCCCCCCCCCCCCCCCCCCCCCCCCCCC
  | 2 => 0xF0F0F0F0F0F0F0F0F0F0F0F0F0F0F0F0F0F0F0F0F0F0F0F0F0F0F0F0F0F0F0F0
  | 3 => 0xFF00FF00FF00FF00FF00FF00FF00FF00FF00FF00FF00FF00FF00FF00FF00FF00
  | 4 => 0xFFFF0000FFFF0000FFFF0000FFFF0000FFFF0000FFFF0000FFFF0000FFFF0000
  | 5 => 0xFFFFFFFF00000000FFFFFFFF00000000FFFFFFFF00000000FFFFFFFF00000000
  | 6 => 0xFFFFFFFFFFFFFFFF0000000000000000FFFFFFFFFFFFFFFF0000000000000000
  | _ => 0xFFFFFFFFFFFFFFFFFFFFFFFFFFFFFFFF00000000000000000000000000000000

theorem testBit_bitPlaces (b : Byte) {i : Nat} (hi : i < 8) : (bitPlaces i).testBit b.toNat = b.getLsbD i := by
  have hplaces : ∀ i : Fin 8, bitPlaces i = placesWithBit 8 i := by decide
  rw [hplaces ⟨i, hi⟩, testBit_placesWithBit b.isLt, BitVec.testBit_toNat]

/-! ### Eight numbers for 256 bytes -/

/-- The numbers `s 0, ..., s 7` hold the bytes `f b`: bit `i` of `f b` stands in number `i` at place `b`. -/
def Sliced (s : Nat → Nat) (f : Byte → Byte) : Prop :=
  ∀ (b : Byte) (i : Nat), i < 8 → (s i).testBit b.toNat = (f b).getLsbD i

/-- The byte 1 at every place. -/
def slicedOne : Nat → Nat
  | 0 => allPlaces
  | _ + 1 => 0

/-- The multiplication by `z` at every place, where `carry` is the number of bit 7. -/
def slicedTimesZ (s : Nat → Nat) (carry : Nat) : Nat → Nat
  | 0 => carry &&& bitPlaces 0
  | i + 1 => s i ^^^ (carry &&& bitPlaces (i + 1))

/-- `f c`, where the match makes an evaluation compute `c` before it goes on: each turn of `slicedShifts` then starts
from a number and not from the terms of all turns before it. -/
def forced {α : Type} (c : Nat) (f : Nat → α) : α :=
  match c with
  | 0 => f 0
  | n + 1 => f (n + 1)

theorem forced_eq {α : Type} (c : Nat) (f : Nat → α) : forced c f = f c := by cases c <;> rfl

/-- `k` multiplications by `z`. -/
def slicedShifts : Nat → (Nat → Nat) → Nat → Nat
  | 0, s => s
  | k + 1, s => forced (s 7) fun carry => slicedShifts k (slicedTimesZ s carry)

theorem slicedShifts_succ (k : Nat) (s : Nat → Nat) :
    slicedShifts (k + 1) s = slicedShifts k (slicedTimesZ s (s 7)) := forced_eq (s 7) _

/-- The places where the byte is not 1. Tied to the bytes by `testBit_notOne`. -/
def notOne (s : Nat → Nat) : Nat := (s 0 ^^^ allPlaces) ||| s 1 ||| s 2 ||| s 3 ||| s 4 ||| s 5 ||| s 6 ||| s 7

theorem sliced_one : Sliced slicedOne fun _ => 1 := by
  intro b i hi
  cases i with
  | zero => exact (testBit_allPlaces b).trans (by decide : true = (1 : Byte).getLsbD 0)
  | succ i =>
    rw [show slicedOne (i + 1) = 0 from rfl, Nat.zero_testBit]
    simp [BitVec.getLsbD_one]

theorem Sliced.step {s : Nat → Nat} {f : Byte → Byte} (h : Sliced s f) :
    Sliced (slicedTimesZ s (s 7)) fun b => timesZ (candidate b) (f b) := by
  intro b i hi
  have hfeedback : (s 7 &&& bitPlaces i).testBit b.toNat = ((f b).getLsbD 7 && (candidate b).getLsbD i) := by
    rw [Nat.testBit_and, h b 7 (by decide), testBit_bitPlaces b hi, getLsbD_candidate_of_lt b hi]
  rw [getLsbD_timesZ _ _ hi, ← hfeedback]
  cases i with
  | zero => exact (Bool.false_xor _).symm
  | succ i =>
    rw [show slicedTimesZ s (s 7) (i + 1) = s i ^^^ (s 7 &&& bitPlaces (i + 1)) from rfl, Nat.testBit_xor,
      h b i (by omega)]
    simp

theorem eq_one_iff_bits (a : Byte) :
    a = 1 ↔ (!a.getLsbD 0 || a.getLsbD 1 || a.getLsbD 2 || a.getLsbD 3 || a.getLsbD 4 || a.getLsbD 5 || a.getLsbD 6 ||
      a.getLsbD 7) = false := by
  constructor
  · rintro rfl
    decide
  · simp only [Bool.or_eq_false_iff, Bool.not_eq_false']
    rintro ⟨⟨⟨⟨⟨⟨⟨h0, h1⟩, h2⟩, h3⟩, h4⟩, h5⟩, h6⟩, h7⟩
    refine BitVec.eq_of_getLsbD_eq fun i hi => ?_
    interval_cases i
    · exact h0.trans (by decide)
    all_goals exact Eq.trans (by assumption) (by decide : false = _)

theorem testBit_notOne {s : Nat → Nat} {f : Byte → Byte} (h : Sliced s f) (b : Byte) :
    (notOne s).testBit b.toNat = true ↔ f b ≠ 1 := by
  have hnotOne : notOne s = (s 0 ^^^ allPlaces) ||| s 1 ||| s 2 ||| s 3 ||| s 4 ||| s 5 ||| s 6 ||| s 7 := rfl
  rw [ne_eq, eq_one_iff_bits, Bool.not_eq_false, hnotOne, ← h b 0 (by decide), ← h b 1 (by decide),
    ← h b 2 (by decide), ← h b 3 (by decide), ← h b 4 (by decide), ← h b 5 (by decide), ← h b 6 (by decide),
    ← h b 7 (by decide), Nat.testBit_or, Nat.testBit_or, Nat.testBit_or, Nat.testBit_or, Nat.testBit_or,
    Nat.testBit_or, Nat.testBit_or, Nat.testBit_xor, testBit_allPlaces, Bool.xor_true]

/-! ### The evaluation -/

theorem Sliced.steps {s : Nat → Nat} {n : Nat} (h : Sliced s fun b => gfPow (candidate b) alpha n) (k : Nat) :
    Sliced (slicedShifts k s) fun b => gfPow (candidate b) alpha (n + k) := by
  induction k generalizing s n with
  | zero => exact h
  | succ k ih =>
    have hnext : Sliced (slicedTimesZ s (s 7)) fun b => gfPow (candidate b) alpha (n + 1) := by
      have hpow : ∀ b, timesZ (candidate b) (gfPow (candidate b) alpha n) = gfPow (candidate b) alpha (n + 1) :=
        fun b => by rw [gfPow_succ, gfMul_alpha (getLsbD_candidate b)]
      rw [← funext hpow]
      exact h.step
    rw [slicedShifts_succ, ← Nat.add_assoc, Nat.add_right_comm]
    exact ih hnext

/-- `alpha^85` at every place. -/
def slicedPow85 : Nat → Nat := slicedShifts 85 slicedOne

/-- `alpha^255` at every place. -/
def slicedPow255 : Nat → Nat := slicedShifts 85 (slicedShifts 85 slicedPow85)

/-- The candidates with `alpha^255 = 1` and none of the three powers that 255 over a prime gives. -/
def passing : Nat :=
  (notOne slicedPow255 ^^^ allPlaces) &&& notOne slicedPow85 &&& notOne (slicedShifts 51 slicedOne) &&&
    notOne (slicedShifts 15 slicedOne)

theorem testBit_passing (b : Byte) :
    passing.testBit b.toNat = true ↔ gfPow (candidate b) alpha 255 = 1 ∧ gfPow (candidate b) alpha 85 ≠ 1 ∧
      gfPow (candidate b) alpha 51 ≠ 1 ∧ gfPow (candidate b) alpha 15 ≠ 1 := by
  have hone : Sliced slicedOne fun b => gfPow (candidate b) alpha 0 := sliced_one
  have h15 : (notOne (slicedShifts 15 slicedOne)).testBit b.toNat = true ↔ gfPow (candidate b) alpha 15 ≠ 1 :=
    testBit_notOne (hone.steps 15) b
  have h51 : (notOne (slicedShifts 51 slicedOne)).testBit b.toNat = true ↔ gfPow (candidate b) alpha 51 ≠ 1 :=
    testBit_notOne (hone.steps 51) b
  have h85 : (notOne slicedPow85).testBit b.toNat = true ↔ gfPow (candidate b) alpha 85 ≠ 1 :=
    testBit_notOne (hone.steps 85) b
  have h255 : (notOne slicedPow255).testBit b.toNat = true ↔ gfPow (candidate b) alpha 255 ≠ 1 :=
    testBit_notOne (((hone.steps 85).steps 85).steps 85) b
  have hpassing : passing = (notOne slicedPow255 ^^^ allPlaces) &&& notOne slicedPow85 &&&
      notOne (slicedShifts 51 slicedOne) &&& notOne (slicedShifts 15 slicedOne) := rfl
  rw [hpassing, Nat.testBit_and, Nat.testBit_and, Nat.testBit_and, Nat.testBit_xor, testBit_allPlaces]
  simp only [Bool.and_eq_true, Bool.xor_true, Bool.not_eq_true', ← Bool.not_eq_true, h15, h51, h85, h255, not_not,
    and_assoc]

/-- The places of a list of polynomials of degree 8. -/
def placesOf (ps : List (BitVec 9)) : Nat := ps.foldr (fun p places => 1 <<< (p.toNat - 256) ||| places) 0

theorem testBit_placesOf (ps : List (BitVec 9)) (n : Nat) :
    (placesOf ps).testBit n = true ↔ ∃ p ∈ ps, p.toNat - 256 = n := by
  induction ps with
  | nil => simp [show placesOf [] = 0 from rfl]
  | cons p ps ih =>
    have hcons : placesOf (p :: ps) = 1 <<< (p.toNat - 256) ||| placesOf ps := rfl
    rw [hcons, Nat.testBit_or, Bool.or_eq_true, ih, Nat.one_shiftLeft, Nat.testBit_two_pow]
    simp

/-- The evaluation of the powers for all candidates: the legal polynomials pass (`00_scope.md` R6). -/
theorem passing_eq_placesOf_legal : passing = placesOf legalPolynomials := by decide

theorem testBit_passing_iff_legal (b : Byte) :
    passing.testBit b.toNat = true ↔ candidate b ∈ legalPolynomials := by
  have hcandidate := toNat_candidate b
  rw [passing_eq_placesOf_legal, testBit_placesOf]
  constructor
  · rintro ⟨p, hp, hplace⟩
    have hdegree : 256 ≤ p.toNat := Nat.ge_two_pow_of_testBit (i := 8) (getLsbD_of_legal hp)
    rwa [show candidate b = p from BitVec.eq_of_toNat_eq (by omega)]
  · intro hb
    exact ⟨candidate b, hb, by omega⟩

end Sys2Proof.Machine
end

section
/-! PROOFS. The order of `alpha` (`40_gf256.md` R116): the primitivity test says that `alpha` has order 255, which the
powers to 255 and to its three largest proper divisors decide. The obligation O25. -/

namespace Sys2Proof.Machine

variable {poly : BitVec 9}

section Monic

variable (hp : poly.getLsbD 8 = true)
include hp

/-- The multiplicative order of a byte. -/
noncomputable def gfOrder (a : Byte) : Nat :=
  letI := gfRing hp
  orderOf (G := Gf poly) a

/-- R116's two conditions. -/
theorem gfOrder_eq_255_iff_injective (a : Byte) :
    gfOrder hp a = 255 ↔
      (∀ i j, i < 255 → j < 255 → gfPow poly a i = gfPow poly a j → i = j) ∧ gfPow poly a 255 = 1 := by
  let _ := gfRing hp
  constructor
  · intro h
    change orderOf (G := Gf poly) a = 255 at h
    have hinj := pow_injOn_Iio_orderOf (G := Gf poly) (x := a)
    have hone := pow_orderOf_eq_one (G := Gf poly) a
    rw [h] at hinj hone
    exact ⟨fun i j hi hj hij => hinj hi hj hij, hone⟩
  · rintro ⟨hinj, hone⟩
    refine (orderOf_eq_iff (G := Gf poly) (x := a) (by decide)).mpr ⟨hone, fun m hm hpos heq => ?_⟩
    exact absurd (hinj m 0 hm (by decide) heq) hpos.ne'

/-- The order is 255 when no quotient of 255 by a prime is a period. -/
theorem gfOrder_eq_255_iff_divisors (a : Byte) :
    gfOrder hp a = 255 ↔
      gfPow poly a 255 = 1 ∧ gfPow poly a 85 ≠ 1 ∧ gfPow poly a 51 ≠ 1 ∧ gfPow poly a 15 ≠ 1 := by
  let _ := gfRing hp
  constructor
  · intro h
    obtain ⟨h255, hproper⟩ := (orderOf_eq_iff (G := Gf poly) (x := a) (by decide)).mp h
    exact ⟨h255, hproper 85 (by decide) (by decide), hproper 51 (by decide) (by decide),
      hproper 15 (by decide) (by decide)⟩
  · rintro ⟨h255, h85, h51, h15⟩
    refine orderOf_eq_of_pow_and_pow_div_prime (G := Gf poly) (x := a) (by decide) h255 fun q hq hdvd => ?_
    have hprimes : q = 3 ∨ q = 5 ∨ q = 17 := by
      rw [show 255 = 3 * 5 * 17 by rfl, hq.dvd_mul, hq.dvd_mul] at hdvd
      simpa only [Nat.prime_dvd_prime_iff_eq hq Nat.prime_three, Nat.prime_dvd_prime_iff_eq hq Nat.prime_five,
        Nat.prime_dvd_prime_iff_eq hq (by decide : Nat.Prime 17), or_assoc] using hdvd
    obtain rfl | rfl | rfl := hprimes
    · exact h85
    · exact h51
    · exact h15

/-- The legal polynomials are those for which `alpha` has order 255. -/
theorem mem_legalPolynomials_iff : poly ∈ legalPolynomials ↔ gfOrder hp alpha = 255 := by
  rw [gfOrder_eq_255_iff_divisors, ← candidate_setWidth hp, ← testBit_passing_iff_legal, testBit_passing]

end Monic

end Sys2Proof.Machine

namespace Sys2Proof.Proofs

open Sys2Proof.Machine Sys2Proof.Claims

/-- Settles O25: both sides say that `alpha` has order 255. -/
theorem legalPolynomialsAreThePrimitiveOnes : Obligations.LegalPolynomialsAreThePrimitiveOnes := fun _ hp =>
  (mem_legalPolynomials_iff hp).trans (gfOrder_eq_255_iff_injective hp alpha)

end Sys2Proof.Proofs
end

section
/-! PROOFS. The field of a legal polynomial (`40_gf256.md` R113, R114, R120): the 255 powers of `alpha` are nonzero and
distinct, so they are all nonzero bytes, and each has an inverse; the ring is a domain, and a polynomial over a domain
has at most as many roots as its degree. The obligation O22. -/

namespace Sys2Proof.Machine

variable {poly : BitVec 9}

section Legal

variable (h : poly ∈ legalPolynomials)
include h

theorem gfPow_alpha_injective {i j : Nat} (hi : i < 255) (hj : j < 255)
    (hij : gfPow poly alpha i = gfPow poly alpha j) : i = j := by
  have hp := getLsbD_of_legal h
  obtain ⟨hinj, -⟩ := (gfOrder_eq_255_iff_injective hp alpha).mp ((mem_legalPolynomials_iff hp).mp h)
  exact hinj i j hi hj hij

theorem gfPow_alpha_255 : gfPow poly alpha 255 = 1 := by
  have hp := getLsbD_of_legal h
  obtain ⟨-, hone⟩ := (gfOrder_eq_255_iff_injective hp alpha).mp ((mem_legalPolynomials_iff hp).mp h)
  exact hone

theorem gfPow_alpha_255_mul (n : Nat) : gfPow poly alpha (255 * n) = 1 := by
  have hp := getLsbD_of_legal h
  rw [gfPow_mul hp, gfPow_alpha_255 h, one_gfPow hp]

theorem gfPow_alpha_mod (n : Nat) : gfPow poly alpha (n % 255) = gfPow poly alpha n := by
  have hp := getLsbD_of_legal h
  conv_rhs => rw [← Nat.div_add_mod n 255, gfPow_add hp, gfPow_alpha_255_mul h, one_gfMul hp]

theorem gfPow_alpha_ne_zero (n : Nat) : gfPow poly alpha n ≠ 0 := by
  intro hzero
  have hone : gfPow poly alpha (n + 254 * n) = 1 := by
    rw [show n + 254 * n = 255 * n by omega, gfPow_alpha_255_mul h]
  rw [gfPow_add (getLsbD_of_legal h), hzero, zero_gfMul] at hone
  exact absurd hone (by decide)

/-- Every nonzero byte is a power of `alpha`: there are as many of them as powers. -/
theorem exists_gfPow_alpha {a : Byte} (ha : a ≠ 0) : ∃ n < 255, gfPow poly alpha n = a := by
  have hpowers : (Finset.range 255).image (gfPow poly alpha) = Finset.univ.erase 0 := by
    refine Finset.eq_of_subset_of_card_le (fun b hb => ?nonzero) ?card
    case nonzero =>
      obtain ⟨n, -, rfl⟩ := Finset.mem_image.mp hb
      exact Finset.mem_erase.mpr ⟨gfPow_alpha_ne_zero h n, Finset.mem_univ _⟩
    case card =>
      rw [Finset.card_image_of_injOn fun i hi j hj =>
        gfPow_alpha_injective h (Finset.mem_range.mp hi) (Finset.mem_range.mp hj)]
      simp [← FinEnum.card_eq_fintypeCard]
  have hmem : a ∈ (Finset.range 255).image (gfPow poly alpha) := by
    rw [hpowers]
    exact Finset.mem_erase.mpr ⟨ha, Finset.mem_univ a⟩
  simpa using hmem

/-- `gf_inv` inverts every nonzero byte (R114). -/
theorem gfMul_gfInv {a : Byte} (ha : a ≠ 0) : gfMul poly a (gfInv poly a) = 1 := by
  have hp := getLsbD_of_legal h
  obtain ⟨n, -, rfl⟩ := exists_gfPow_alpha h ha
  rw [gfInv_eq, gfMul_comm hp, ← gfPow_succ, ← gfPow_mul hp, Nat.mul_comm, gfPow_alpha_255_mul h]

theorem gfMul_eq_zero (a b : Byte) : gfMul poly a b = 0 ↔ a = 0 ∨ b = 0 := by
  have hp := getLsbD_of_legal h
  constructor
  · intro hab
    refine or_iff_not_imp_left.mpr fun ha => ?_
    calc b = gfMul poly (gfMul poly a (gfInv poly a)) b := by rw [gfMul_gfInv h ha, one_gfMul hp]
      _ = gfMul poly (gfMul poly a b) (gfInv poly a) := gfMul_right_comm hp a (gfInv poly a) b
      _ = 0 := by rw [hab, zero_gfMul]
  · rintro (rfl | rfl)
    · exact zero_gfMul poly b
    · exact gfMul_zero poly a

/-- `gf_exp` turns sums into products: exponents count modulo 255 (R113). -/
theorem gfExp_add (a b : Int) : gfExp poly (a + b) = gfMul poly (gfExp poly a) (gfExp poly b) := by
  have hsum : ((a + b) % 255).toNat = ((a % 255).toNat + (b % 255).toNat) % 255 := by omega
  rw [gfExp_eq, gfExp_eq, gfExp_eq, ← gfPow_add (getLsbD_of_legal h), hsum, gfPow_alpha_mod h]

theorem gfRing_isDomain :
    letI := gfRing (getLsbD_of_legal h)
    IsDomain (Gf poly) := by
  let _ := gfRing (getLsbD_of_legal h)
  have : NoZeroDivisors (Gf poly) := ⟨fun {a b} hab => (gfMul_eq_zero h a b).mp hab⟩
  have : Nontrivial (Gf poly) := ⟨(0 : Byte), (1 : Byte), (by decide : (0 : Byte) ≠ 1)⟩
  exact NoZeroDivisors.to_isDomain _

end Legal

/-! ### Roots -/

section Roots

open Polynomial

variable {R : Type*} [CommRing R]

/-- The polynomial of a list of coefficients, lowest degree first (R117). Tied to Horner's rule by `eval_listPoly`. -/
noncomputable def listPoly (p : List R) : R[X] := p.foldr (fun coeff acc => acc * X + C coeff) 0

theorem listPoly_nil : listPoly ([] : List R) = 0 := rfl

theorem listPoly_cons (coeff : R) (p : List R) : listPoly (coeff :: p) = listPoly p * X + C coeff := rfl

theorem coeff_listPoly (p : List R) (i : Nat) : (listPoly p).coeff i = p.getD i 0 := by
  induction p generalizing i with
  | nil => rw [listPoly_nil, coeff_zero, List.getD_nil]
  | cons coeff p ih =>
    cases i with
    | zero => rw [listPoly_cons, coeff_add, coeff_mul_X_zero, coeff_C_zero, zero_add, List.getD_cons_zero]
    | succ i => rw [listPoly_cons, coeff_add, coeff_mul_X, coeff_C_succ, add_zero, ih, List.getD_cons_succ]

theorem eval_listPoly (p : List R) (v : R) :
    (listPoly p).eval v = p.foldr (fun coeff acc => acc * v + coeff) 0 := by
  induction p with
  | nil => rw [listPoly_nil, eval_zero, List.foldr_nil]
  | cons coeff p ih => rw [listPoly_cons, eval_add, eval_mul, eval_X, eval_C, ih, List.foldr_cons]

/-- A list of degree `d` over a domain has at most `d` roots by Horner's rule. -/
theorem length_horner_roots_le [IsDomain R] {p : List R} {d : Nat} {roots : List R} (hd : p.getD d 0 ≠ 0)
    (hhigh : ∀ i, d < i → p.getD i 0 = 0) (hnodup : roots.Nodup)
    (hroots : ∀ v ∈ roots, p.foldr (fun coeff acc => acc * v + coeff) 0 = 0) : roots.length ≤ d := by
  classical
  have hne : listPoly p ≠ 0 := fun h => hd (by rw [← coeff_listPoly, h, coeff_zero])
  have hdegree : (listPoly p).natDegree ≤ d :=
    natDegree_le_iff_coeff_eq_zero.mpr fun i hi => by rw [coeff_listPoly, hhigh i hi]
  have hsubset : roots.toFinset.val ⊆ (listPoly p).roots := by
    intro v hv
    rw [mem_roots hne, IsRoot.def, eval_listPoly]
    exact hroots v (by simpa using hv)
  calc roots.length = roots.toFinset.card := (List.toFinset_card_of_nodup hnodup).symm
    _ ≤ (listPoly p).natDegree := card_le_degree_of_subset_roots hsubset
    _ ≤ d := hdegree

end Roots

/-- A nonzero polynomial of degree `d` has at most `d` roots (R120). -/
theorem length_roots_le (h : poly ∈ legalPolynomials) {p : List Byte} {d : Nat} {roots : List Byte}
    (hd : p.getD d 0 ≠ 0) (hhigh : ∀ i, d < i → p.getD i 0 = 0) (hnodup : roots.Nodup)
    (hroots : ∀ v ∈ roots, polyEval poly p v = 0) : roots.length ≤ d :=
  let _ := gfRing (getLsbD_of_legal h)
  have := gfRing_isDomain h
  length_horner_roots_le (R := Gf poly) hd hhigh hnodup hroots

end Sys2Proof.Machine

namespace Sys2Proof.Proofs

open Sys2Proof.Machine Sys2Proof.Claims

/-- Settles O22: the laws of the ring, and those of the field of a legal polynomial. -/
theorem fieldLawsHold : Obligations.FieldLawsHold := by
  intro c
  have hlegal := c.primPoly_legal
  have hp := getLsbD_of_legal hlegal
  exact ⟨fun a b => ⟨BitVec.xor_comm a b, gfMul_comm hp a b⟩,
    fun a b d => ⟨BitVec.xor_assoc a b d, gfMul_assoc hp a b d⟩,
    gfMul_xor hp,
    fun _ => BitVec.xor_self,
    gfMul_eq_zero hlegal,
    fun _ _ _ hd hhigh hnodup hroots => length_roots_le hlegal hd hhigh hnodup hroots,
    gfExp_add hlegal⟩

end Sys2Proof.Proofs
end

section
/-! PROOFS. The formal derivative (`40_gf256.md` R119): the obligation O27. -/

namespace Sys2Proof.Proofs

open Sys2Proof.Machine Sys2Proof.Claims

/-- Settles O27: the coefficients from index 1 on, of which those at odd places are kept. -/
theorem derivativeKeepsOddCoefficients : Obligations.DerivativeKeepsOddCoefficients := by
  intro p
  refine ⟨derivative_length p, fun i hi _ => ?_⟩
  obtain ⟨i, rfl⟩ := Nat.exists_eq_add_of_le' hi
  have htail : p.tail.getD i 0 = p.getD (i + 1) 0 := by cases p <;> rfl
  rw [derivative, Nat.add_sub_cancel, keepOdd_getD, htail]
  obtain heven | hodd := Nat.mod_two_eq_zero_or_one i
  · simp [heven, Nat.add_mod]
  · simp [hodd, Nat.add_mod]

end Sys2Proof.Proofs
end

section
/-! PROOFS. The check's memory. The kernel evaluates the frozen `test_primitive` while the text after it is being
elaborated, and the two together can pass the check's limit of 22 GiB: elaboration waits here until that evaluation is
over. Nothing below depends on this section. -/

namespace Sys2Proof.Proofs

set_option linter.unusedTactic false in
example : True := by
  sleep 60000
  trivial

end Sys2Proof.Proofs
end

section
/-! PROOFS. Syndromes (`41_rs_commands.md` R140, R142): sums of bytes, Horner's rule from the highest degree down, and
the obligation O28. -/

namespace Sys2Proof.Machine

open Sys2Proof.Claims

/-! ### Sums of bytes -/

theorem xorSum_zero (f : Nat → Byte) : xorSum 0 f = 0 := rfl

theorem xorSum_succ (k : Nat) (f : Nat → Byte) : xorSum (k + 1) f = xorSum k f ^^^ f k := by
  simp [xorSum, List.range_succ]

theorem xorSum_congr {k : Nat} {f g : Nat → Byte} (h : ∀ i, i < k → f i = g i) : xorSum k f = xorSum k g := by
  induction k with
  | zero => rfl
  | succ k ih => rw [xorSum_succ, xorSum_succ, ih fun i hi => h i (by omega), h k (by omega)]

/-- A sum whose terms are all zero. -/
theorem xorSum_eq_zero {k : Nat} {f : Nat → Byte} (h : ∀ i, i < k → f i = 0) : xorSum k f = 0 := by
  induction k with
  | zero => rfl
  | succ k ih =>
    rw [xorSum_succ, ih fun i hi => h i (by omega), h k (by omega)]
    rfl

/-- A sum with one term that may be nonzero. -/
theorem xorSum_eq_single {k q : Nat} {f : Nat → Byte} (hq : q < k) (h : ∀ i, i < k → i ≠ q → f i = 0) :
    xorSum k f = f q := by
  induction k with
  | zero => omega
  | succ k ih =>
    rw [xorSum_succ]
    obtain rfl | hlt : q = k ∨ q < k := by omega
    · rw [xorSum_eq_zero fun i hi => h i (by omega) (by omega)]
      exact BitVec.zero_xor
    · rw [ih hlt fun i hi => h i (by omega), h k (by omega) (by omega)]
      exact BitVec.xor_zero

theorem xorSum_gfMul {poly : BitVec 9} (hp : poly.getLsbD 8 = true) (k : Nat) (f : Nat → Byte) (v : Byte) :
    gfMul poly (xorSum k f) v = xorSum k fun i => gfMul poly (f i) v := by
  induction k with
  | zero => exact zero_gfMul poly v
  | succ k ih => rw [xorSum_succ, xorSum_succ, xor_gfMul hp, ih]

/-! ### Syndromes -/

theorem gfExp_zero (poly : BitVec 9) : gfExp poly 0 = 1 := rfl

theorem syndrome_nil (c : Config) (j : Nat) : syndrome c [] j = 0 := rfl

/-- One more byte at the low end: Horner's step. -/
theorem syndrome_append_singleton (c : Config) (w : List Byte) (b : Byte) (j : Nat) :
    syndrome c (w ++ [b]) j = gfMul c.primPoly (syndrome c w j) (gfExp c.primPoly (c.fcr + j)) ^^^ b := by
  simp [syndrome]

/-- Syndrome `j` is the sum of the word's terms at `alpha^(FCR+j)` (R140, R142). -/
theorem syndrome_eq_xorSum (c : Config) (w : List Byte) (j : Nat) :
    syndrome c w j = xorSum w.length fun i =>
      gfMul c.primPoly (w.getD i 0) (gfExp c.primPoly ((c.fcr + j : Int) * ((w.length : Int) - 1 - i))) := by
  have hp := getLsbD_of_legal c.primPoly_legal
  induction w using List.reverseRecOn with
  | nil => rfl
  | append_singleton w b ih =>
    have hlow : gfMul c.primPoly ((w ++ [b]).getD w.length 0)
        (gfExp c.primPoly ((c.fcr + j : Int) * (((w.length + 1 : Nat) : Int) - 1 - w.length))) = b := by
      rw [show ((w.length + 1 : Nat) : Int) - 1 - w.length = 0 by omega, Int.mul_zero, gfExp_zero, gfMul_one hp]
      simp
    rw [syndrome_append_singleton, ih, xorSum_gfMul hp, List.length_append, List.length_singleton, xorSum_succ, hlow]
    congr 1
    refine xorSum_congr fun i hi => ?_
    have hexponent : (c.fcr + j : Int) * (((w.length + 1 : Nat) : Int) - 1 - i) =
        (c.fcr + j : Int) * ((w.length : Int) - 1 - i) + (c.fcr + j) := by
      push_cast
      ring
    rw [gfMul_assoc hp, ← gfExp_add c.primPoly_legal, hexponent, List.getD_append _ _ _ _ hi]

end Sys2Proof.Machine

namespace Sys2Proof.Proofs

open Sys2Proof.Machine Sys2Proof.Claims

/-- Settles O28: Horner's rule sums the terms of the word. -/
theorem syndromeIsTheWordAtARootOfTheCode : Obligations.SyndromeIsTheWordAtARootOfTheCode := syndrome_eq_xorSum

end Sys2Proof.Proofs
end

section
/-! PROOFS. The Reed-Solomon stage commands (`41_rs_commands.md` R143, R148, R152, R153): what each stage answers and
leaves unchanged, and the obligations O29, O33, O35 and O39. -/

namespace Sys2Proof.Machine

open Sys2Proof.Claims

/-! ### The commands -/

theorem exec_rsSyn (s : State) : exec .rsSyn s = .next (conclude (performSyn s)) := rfl

theorem exec_rsKes (s : State) : exec .rsKes s = .next (conclude (performKes s)) := rfl

theorem exec_rsChn (s : State) : exec .rsChn s = .next (conclude (performChn s)) := rfl

theorem exec_rsFny (s : State) : exec .rsFny s = .next (conclude (performFny s)) := rfl

theorem exec_rsApl (s : State) : exec .rsApl s = .next (conclude (performApl s)) := rfl

theorem exec_rsDec (s : State) : exec .rsDec s = .next (conclude (performDec s)) := rfl

/-- The configuration check of `41_rs_commands.md` R141. -/
theorem cfgRsOk_iff (s : State) : s.cfgRsOk = true ↔ rsConfig s := by
  simp [State.cfgRsOk, rsConfig, and_assoc]

/-! ### Frames -/

theorem keepsMemory_refl (s : State) : keepsMemory s s := fun _ => rfl

theorem keepsMemory.trans {s t u : State} (h : keepsMemory s t) (h' : keepsMemory t u) : keepsMemory s u :=
  fun a => (h' a).trans (h a)

theorem keepsMemory_done (s : State) (code : Code) : keepsMemory s (s.done code) := keepsMemory_of_eq rfl rfl

theorem State.peek_setStage (s : State) (st : Stage) (a : Nat) : (s.setStage st).peek a = s.peek a := rfl

theorem State.peek_done (s : State) (code : Code) (a : Nat) : (s.done code).peek a = s.peek a := rfl

theorem State.setBuffer_status (s : State) (i : Nat) (bs : List Byte) : (s.setBuffer i bs).status = s.status := by
  rw [State.setBuffer_eq]

theorem keepsOperands_setBuffer (s : State) (i : Nat) (bs : List Byte) : keepsOperands s (s.setBuffer i bs) := by
  rw [State.setBuffer_eq]
  exact ⟨rfl, rfl, rfl⟩

theorem keepsCursor_setBuffer (s : State) (i : Nat) (bs : List Byte) : keepsCursor s (s.setBuffer i bs) := by
  rw [State.setBuffer_eq]
  exact ⟨rfl, rfl, rfl, rfl, rfl⟩

theorem keepsRsResults_setBuffer (s : State) (i : Nat) (bs : List Byte) : keepsRsResults s (s.setBuffer i bs) := by
  rw [State.setBuffer_eq]
  exact ⟨rfl, rfl, rfl, rfl, rfl, rfl⟩

theorem keepsPort_setBuffer (s : State) (i : Nat) (bs : List Byte) : keepsPort s (s.setBuffer i bs) := by
  rw [State.setBuffer_eq]
  exact ⟨rfl, rfl, rfl, rfl⟩

/-! ### Lists of bytes with a tail of zeros -/

/-- The syndromes with a tail of zeros (R143). -/
theorem syndromes_append_getD (c : Config) (w : List Byte) {k j : Nat} (h : j < k) (zeros : Nat) :
    (syndromes c w k ++ List.replicate zeros 0).getD j 0 = syndrome c w j := by
  rw [List.getD_append _ _ _ _ (by simpa using h), syndromes_getD c w h]

theorem syndromes_append_getD_tail (c : Config) (w : List Byte) {k j : Nat} (h : k ≤ j) (zeros : Nat) :
    (syndromes c w k ++ List.replicate zeros 0).getD j 0 = 0 := by
  rw [List.getD_append_right _ _ _ _ (by simpa using h)]
  by_cases hj : j - k < zeros <;> simp [List.getD, hj]

theorem padded_getD {size k : Nat} (hk : k < size) (l : List Byte) : (padded size l).getD k 0 = l.getD k 0 := by
  have hpadded : padded size l = l.take size ++ List.replicate (size - l.length) 0 := rfl
  rw [hpadded]
  obtain hlt | hge := Nat.lt_or_ge k l.length
  · rw [List.getD_append _ _ _ _ (by simp; omega)]
    simp [List.getD, hk]
  · rw [List.getD_append_right _ _ _ _ (by simp; omega), List.getD_eq_default l 0 hge]
    simp [List.getD]

/-! ### Root positions -/

theorem isRootPosition_eq_locatorAt (s : State) (i : Nat) :
    isRootPosition s.cfg s.lambda s.n i = (locatorAt s i == 0) := rfl

theorem rootPositions_eq_filter (s : State) :
    rootPositions s.cfg s.lambda s.n = (List.range s.n).filter fun i => locatorAt s i == 0 :=
  List.filter_congr fun i _ => isRootPosition_eq_locatorAt s i

/-- A root position is a buffer index. -/
theorem lt_of_mem_rootPositions {c : Config} {lambda : List Byte} {n i : Nat} (h : i ∈ rootPositions c lambda n) :
    i < n := List.mem_range.mp (List.mem_filter.mp h).1

theorem rootPositions_length_le (c : Config) (lambda : List Byte) (n : Nat) :
    (rootPositions c lambda n).length ≤ n := (List.length_filter_le ..).trans (by simp)

/-- `ERRLOC` as `RS_CHN` writes it, read as a buffer index (R148). -/
theorem padded_toNat {l : List Nat} (hl : ∀ i ∈ l, i < 256) {size k : Nat} (hk : k < size) :
    ((padded size (l.map (BitVec.ofNat 8))).getD k 0).toNat = l.getD k 0 := by
  rw [padded_getD hk]
  obtain hlt | hge := Nat.lt_or_ge k l.length
  · rw [List.getD_eq_getElem _ 0 (by simpa using hlt), List.getD_eq_getElem l 0 hlt, List.getElem_map,
      BitVec.toNat_ofNat, Nat.mod_eq_of_lt (hl _ (List.getElem_mem hlt))]
  · rw [List.getD_eq_default _ 0 (by simpa using hge), List.getD_eq_default l 0 hge]
    rfl

/-! ### The candidate -/

/-- A byte of the word after the corrections of `RS_APL`'s first loop (R152), for any list of bytes to start from. -/
theorem foldl_modify_getD (errloc : Nat → Nat) (errval : Nat → Byte) (w : List Byte) (count : Nat) {i : Nat}
    (hi : i < w.length) :
    ((List.range count).foldl (fun w q => w.modify (errloc q) (· ^^^ errval q)) w).getD i 0 =
      w.getD i 0 ^^^ xorSum count fun q => if errloc q = i then errval q else 0 := by
  induction count with
  | zero => exact BitVec.xor_zero.symm
  | succ count ih =>
    have hlength : ∀ qs : List Nat,
        (qs.foldl (fun w q => w.modify (errloc q) (· ^^^ errval q)) w).length = w.length := by
      intro qs
      induction qs using List.reverseRecOn with
      | nil => rfl
      | append_singleton qs q ih => simp [ih]
    rw [List.range_succ, List.foldl_append, List.foldl_cons, List.foldl_nil, xorSum_succ, ← BitVec.xor_assoc, ← ih]
    rw [List.getD_eq_getElem _ 0 (by simpa [hlength] using hi), List.getD_eq_getElem _ 0 (by simpa [hlength] using hi),
      List.getElem_modify]
    split_ifs
    · rfl
    · exact BitVec.xor_zero.symm

theorem buffer_getD (s : State) {i : Nat} (hi : i < s.n) : s.buffer.getD i 0 = s.cw i := by
  rw [List.getD_eq_getElem _ 0 (by simpa using hi), buffer_getElem s hi]

/-- A byte of the candidate: the buffer's byte and the error values located there (R152). -/
theorem candidate_getD (s : State) {i : Nat} (hi : i < s.n) :
    s.candidate.getD i 0 =
      s.cw i ^^^ xorSum s.rsErrcnt.toNat fun q => if s.errlocAt q = i then s.errvalAt q else 0 := by
  rw [← buffer_getD s hi]
  exact foldl_modify_getD s.errlocAt s.errvalAt s.buffer s.rsErrcnt.toNat (by simpa using hi)

/-- Words of one length with the same bytes are equal. -/
theorem ext_getD {v w : List Byte} (hlength : v.length = w.length)
    (h : ∀ i, i < v.length → v.getD i 0 = w.getD i 0) : v = w := by
  refine List.ext_getElem hlength fun i hv hw => ?_
  rw [← List.getD_eq_getElem v 0 hv, ← List.getD_eq_getElem w 0 hw, h i hv]

/-- What a commit leaves in the buffer. -/
theorem cw_setBuffer_zero (s : State) (bs : List Byte) {i : Nat} (hi : i < bs.length) :
    (s.setBuffer 0 bs).cw i = bs.getD i 0 := by
  rw [List.getD_eq_getElem _ 0 hi, ← State.cw_setBuffer s 0 bs hi, Nat.zero_add]

/-! ### Memory -/

/-- `RS_SYN`, `RS_KES`, `RS_CHN` and `RS_FNY` write no memory, and `RS_APL` writes none unless it ends `OK`. -/
theorem performSyn_keepsMemory (s : State) : keepsMemory s (performSyn s).1 := by
  obtain ⟨-, h⟩ | ⟨-, h⟩ := performSyn_cases s <;> rw [h] <;> exact keepsMemory_of_eq rfl rfl

theorem performKes_keepsMemory (s : State) : keepsMemory s (performKes s).1 := by
  obtain ⟨-, h⟩ | ⟨-, -, h⟩ | ⟨-, -, h⟩ := performKes_cases s <;> rw [h] <;> exact keepsMemory_of_eq rfl rfl

theorem performChn_keepsMemory (s : State) : keepsMemory s (performChn s).1 := by
  obtain ⟨-, h⟩ | ⟨-, -, h⟩ | ⟨-, -, h⟩ := performChn_cases s <;> rw [h] <;> exact keepsMemory_of_eq rfl rfl

theorem performFny_keepsMemory (s : State) : keepsMemory s (performFny s).1 := by
  obtain ⟨-, h⟩ | ⟨-, h⟩ := performFny_cases s <;> rw [h] <;> exact keepsMemory_of_eq rfl rfl

theorem performApl_keepsMemory {s : State} (hcode : (performApl s).2 ≠ .ok) : keepsMemory s (performApl s).1 := by
  obtain ⟨-, h⟩ | ⟨-, -, h⟩ | ⟨-, -, h⟩ := performApl_cases s
  · rw [h]; exact keepsMemory_refl s
  · rw [h]; exact keepsMemory_refl s
  · exact absurd (by rw [h]) hcode

/-- A chain of two stages keeps the memory where each of them does; the second one only has to where it fails. -/
theorem andThen_keepsMemory {s : State} {r : State × Code} {stage : State → State × Code}
    (hr : keepsMemory s r.1) (hstage : (stage r.1).2 ≠ .ok → keepsMemory r.1 (stage r.1).1)
    (hcode : (andThen r stage).2 ≠ .ok) : keepsMemory s (andThen r stage).1 := by
  by_cases h : r.2 = .ok
  · rw [andThen_ok h] at hcode ⊢
    exact hr.trans (hstage hcode)
  · rw [andThen_stop h]
    exact hr

/-- A chain of two stages that never write memory. -/
theorem andThen_keepsMemory_always {s : State} {r : State × Code} {stage : State → State × Code}
    (hr : keepsMemory s r.1) (hstage : keepsMemory r.1 (stage r.1).1) : keepsMemory s (andThen r stage).1 := by
  by_cases h : r.2 = .ok
  · rw [andThen_ok h]
    exact hr.trans hstage
  · rw [andThen_stop h]
    exact hr

theorem performDec_keepsMemory {s : State} (hcode : (performDec s).2 ≠ .ok) : keepsMemory s (performDec s).1 :=
  have hkes := andThen_keepsMemory_always (performSyn_keepsMemory s) (performKes_keepsMemory _)
  have hchn := andThen_keepsMemory_always hkes (performChn_keepsMemory _)
  have hfny := andThen_keepsMemory_always hchn (performFny_keepsMemory _)
  andThen_keepsMemory hfny performApl_keepsMemory hcode

/-- A command keeps the memory where its stage does, for the code the stage answers. -/
theorem keepsMemory_conclude {s : State} {r : State × Code} (h : keepsMemory s r.1) : keepsMemory s (conclude r) :=
  h.trans (keepsMemory_done r.1 r.2)

end Sys2Proof.Machine

namespace Sys2Proof.Proofs

open Sys2Proof.Machine Sys2Proof.Claims

theorem decode_rsSyn : decode 0x00000010 = .ok .rsSyn := rfl

theorem decode_rsChn : decode 0x00000012 = .ok .rsChn := rfl

theorem decode_rsApl : decode 0x00000014 = .ok .rsApl := rfl

/-- Settles O29: the two cases of the stage, and the syndromes with their tail of zeros. -/
theorem rsSynWritesTheSyndromes : Obligations.RsSynWritesTheSyndromes := by
  refine ⟨decode_rsSyn, fun s => ⟨fun hconfig => ?fails, fun hconfig => ?passes⟩⟩
  case fails =>
    obtain ⟨hok, -⟩ | ⟨-, h⟩ := performSyn_cases s
    · exact absurd ((cfgRsOk_iff s).mp hok) hconfig
    · rw [exec_rsSyn, h]; rfl
  case passes =>
    obtain ⟨-, h⟩ | ⟨hok, -⟩ := performSyn_cases s
    · rw [exec_rsSyn, h]
      refine ⟨_, rfl, fun j hj => ?found, fun j hj _ => ?tail, ?length, rfl, rfl, ?szero, rfl, rfl, rfl, rfl, rfl,
        ⟨rfl, rfl, rfl⟩, ⟨rfl, rfl, rfl, rfl, rfl⟩, keepsMemory_of_eq rfl rfl, rfl, rfl, rfl, rfl⟩
      case found => exact syndromes_append_getD s.cfg s.buffer hj _
      case tail => exact syndromes_append_getD_tail s.cfg s.buffer hj _
      case length =>
        obtain ⟨-, -, hnsym⟩ := hconfig
        simp [hnsym]
      case szero =>
        refine (isCodeword_iff s.cfg s.buffer s.nsym).trans (forall₂_congr fun j hj => ?_)
        exact Eq.congr_left (syndromes_append_getD s.cfg s.buffer hj _).symm
    · exact absurd ((cfgRsOk_iff s).mpr hconfig) (by simp [hok])

/-- Settles O33: the three cases of the stage; the root positions are buffer indices, so that a byte holds each of
them and their number. -/
theorem rsChnListsTheRootPositions : Obligations.RsChnListsTheRootPositions := by
  refine ⟨decode_rsChn, fun s => ?_⟩
  have hn : s.n < 256 := s.rsN.isLt
  have hcount : (rootPositions s.cfg s.lambda s.n).length < 256 := (rootPositions_length_le ..).trans_lt hn
  have hcntNat : (BitVec.ofNat 8 (rootPositions s.cfg s.lambda s.n).length).toNat =
      (rootPositions s.cfg s.lambda s.n).length := by rw [BitVec.toNat_ofNat, Nat.mod_eq_of_lt hcount]
  have hloc : ∀ k, k < s.cfg.tMax →
      ((padded s.cfg.tMax ((rootPositions s.cfg s.lambda s.n).map (BitVec.ofNat 8))).getD k 0).toNat =
        (rootPositions s.cfg s.lambda s.n).getD k 0 := fun k hk =>
    padded_toNat (fun i hi => (lt_of_mem_rootPositions hi).trans hn) hk
  obtain ⟨hstage, h⟩ | ⟨hstage, hlen, h⟩ | ⟨hstage, hlen, h⟩ := performChn_cases s
  · refine ⟨fun _ => by rw [exec_rsChn, h]; rfl, fun hkes => absurd hkes hstage⟩
  all_goals
    refine ⟨fun hkes => absurd hstage hkes, fun _ => ?_⟩
    rw [exec_rsChn, h]
    refine ⟨_, rfl, ?_, rfl, rfl, rfl, rfl, rfl, ⟨rfl, rfl, rfl⟩, ⟨rfl, rfl, rfl, rfl, rfl⟩,
      keepsMemory_of_eq rfl rfl, rfl, rfl, rfl, rfl⟩
    rintro found rfl
    rw [← rootPositions_eq_filter s]
  · exact ⟨hcntNat, padded_length .., hloc, fun _ => ⟨rfl, hstage⟩, fun heq => absurd heq hlen⟩
  · exact ⟨hcntNat, padded_length .., hloc, fun hne => absurd hlen hne, fun _ => ⟨rfl, rfl⟩⟩

/-- Settles O35: a word with the bytes that the rule lists is the model's candidate, and the stage commits it where
all its syndromes are zero. -/
theorem rsAplCommitsACandidateThatIsACodeword : Obligations.RsAplCommitsACandidateThatIsACodeword := by
  refine ⟨decode_rsApl, fun s => ⟨fun hstage => ?sequence, fun hstage cand hlength hbytes => ?_⟩⟩
  case sequence =>
    obtain ⟨-, h⟩ | ⟨hfny, -⟩ | ⟨hfny, -⟩ := performApl_cases s
    · rw [exec_rsApl, h]; rfl
    · exact absurd hfny hstage
    · exact absurd hfny hstage
  obtain rfl : cand = s.candidate :=
    ext_getD (by simpa using hlength) fun i hi => by
      rw [candidate_getD s (by omega), hbytes i (by omega)]
  obtain ⟨hne, -⟩ | ⟨-, hbad, h⟩ | ⟨-, hgood, h⟩ := performApl_cases s
  · exact absurd hstage hne
  · refine ⟨fun _ => by rw [exec_rsApl, h]; rfl, fun hzero => ?_⟩
    exact absurd ((isCodeword_iff s.cfg s.candidate s.nsym).mpr hzero) (by simp [hbad])
  · have hzero := (isCodeword_iff s.cfg s.candidate s.nsym).mp hgood
    refine ⟨fun ⟨j, hj, hne⟩ => absurd (hzero j hj) hne, fun _ => ?_⟩
    rw [exec_rsApl, h]
    refine ⟨_, rfl, fun i hi => ?committed, fun a ha => ?outside, ?status, keepsOperands_setBuffer s 0 s.candidate,
      keepsCursor_setBuffer s 0 s.candidate, keepsRsResults_setBuffer s 0 s.candidate,
      keepsPort_setBuffer s 0 s.candidate⟩
    case committed => exact cw_setBuffer_zero s s.candidate (by simpa using hi)
    case outside =>
      refine State.peek_setBuffer_other s 0 s.candidate fun k hk => ?_
      rw [Nat.zero_add]
      exact ha k (by simpa using hk)
    case status => rw [conclude_eq, State.done_status, State.setStage_status, State.setBuffer_status]

/-- Settles O39: the first four stages write no memory, `RS_APL` writes none where it fails, and `RS_DEC` is their
chain. -/
theorem failedRsCommandLeavesTheBuffer : Obligations.FailedRsCommandLeavesTheBuffer := by
  rintro i s t (rfl | rfl | rfl | rfl | rfl | rfl) hexec hfails <;> cases hexec
  · exact keepsMemory_conclude (performSyn_keepsMemory s)
  · exact keepsMemory_conclude (performKes_keepsMemory s)
  · exact keepsMemory_conclude (performChn_keepsMemory s)
  · exact keepsMemory_conclude (performFny_keepsMemory s)
  · obtain hcode | ⟨hne, -⟩ := hfails
    · exact keepsMemory_conclude (performApl_keepsMemory hcode)
    · exact absurd rfl hne
  · obtain hcode | ⟨-, hne⟩ := hfails
    · exact keepsMemory_conclude (performDec_keepsMemory hcode)
    · exact absurd rfl hne

end Sys2Proof.Proofs
end

section
/-! PROOFS. The theory behind `RS_KES` and `RS_FNY` (`41_rs_commands.md` R146, R151, R155) for polynomials over a field:
the error locator and the error evaluator of a set of errors, the pairs that the Berlekamp–Massey loop keeps, and why
the loop's last pair is the error locator when the errors are within capacity. -/

namespace Sys2Proof.Machine

open Polynomial

variable {K : Type*} [Field K]

/-! ### Degrees -/

theorem C_mul_mem_degreeLT {a : Nat} {f : K[X]} (hf : f ∈ degreeLT K a) (d : K) : C d * f ∈ degreeLT K a := by
  rw [← smul_eq_C_mul]
  exact Submodule.smul_mem _ d hf

theorem mul_mem_degreeLT {a b : Nat} {f g : K[X]} (hf : f ∈ degreeLT K (a + 1)) (hg : g ∈ degreeLT K b) :
    f * g ∈ degreeLT K (a + b) := by
  by_cases hg0 : g = 0
  · rw [hg0, mul_zero]
    exact Submodule.zero_mem _
  rw [mem_degreeLT] at hf hg ⊢
  have hdf : f.natDegree ≤ a := natDegree_le_iff_degree_le.mpr (Order.lt_succ_iff.mp hf)
  have hdg : g.natDegree < b := (natDegree_lt_iff_degree_lt hg0).mpr hg
  exact (degree_le_of_natDegree_le natDegree_mul_le).trans_lt (Nat.cast_lt.mpr (by omega))

theorem X_mem_degreeLT : (X : K[X]) ∈ degreeLT K 2 := by
  rw [mem_degreeLT, degree_X]
  exact Nat.cast_lt.mpr (by decide : 1 < 2)

theorem one_mem_degreeLT : (1 : K[X]) ∈ degreeLT K 1 := by
  rw [mem_degreeLT, degree_one]
  exact Nat.cast_lt.mpr Nat.one_pos

theorem X_mul_mem_degreeLT {a : Nat} {f : K[X]} (hf : f ∈ degreeLT K a) : X * f ∈ degreeLT K (a + 1) :=
  degreeLT_mono (by omega) (mul_mem_degreeLT X_mem_degreeLT hf)

theorem coeff_eq_zero_of_mem_degreeLT {a i : Nat} {f : K[X]} (hf : f ∈ degreeLT K a) (hi : a ≤ i) :
    f.coeff i = 0 :=
  coeff_eq_zero_of_degree_lt ((mem_degreeLT.mp hf).trans_le (Nat.cast_le.mpr hi))

theorem eq_zero_of_X_pow_dvd {n : Nat} {f : K[X]} (hdvd : X ^ n ∣ f) (hf : f ∈ degreeLT K n) : f = 0 :=
  eq_zero_of_dvd_of_degree_lt hdvd (by rw [degree_X_pow]; exact mem_degreeLT.mp hf)

/-! ### The locator and the evaluator of a set of errors -/

/-- The error locator: the roots are the inverses of the errors' positions `x i` (R147). -/
noncomputable def locatorPoly (E : Finset Nat) (x : Nat → K) : K[X] := ∏ i ∈ E, (1 - C (x i) * X)

/-- The error evaluator of weights `a i` (R151). -/
noncomputable def evaluatorPoly (E : Finset Nat) (x a : Nat → K) : K[X] :=
  ∑ i ∈ E, C (a i) * locatorPoly (E.erase i) x

variable {E : Finset Nat} {x a : Nat → K}

theorem eval_locatorPoly (E : Finset Nat) (x : Nat → K) (v : K) :
    (locatorPoly E x).eval v = ∏ i ∈ E, (1 - x i * v) := by
  rw [locatorPoly, eval_prod]
  simp

theorem eval_evaluatorPoly (E : Finset Nat) (x a : Nat → K) (v : K) :
    (evaluatorPoly E x a).eval v = ∑ i ∈ E, a i * (locatorPoly (E.erase i) x).eval v := by
  rw [evaluatorPoly, eval_finsetSum]
  simp

theorem coeff_zero_locatorPoly (E : Finset Nat) (x : Nat → K) : (locatorPoly E x).coeff 0 = 1 := by
  rw [coeff_zero_eq_eval_zero, eval_locatorPoly]
  simp

theorem locatorPoly_mem (E : Finset Nat) (x : Nat → K) : locatorPoly E x ∈ degreeLT K (E.card + 1) := by
  induction E using Finset.induction_on with
  | empty => exact one_mem_degreeLT
  | insert i E hi ih =>
    have hfactor : 1 - C (x i) * X ∈ degreeLT K (1 + 1) :=
      Submodule.sub_mem _ (degreeLT_mono (by decide) one_mem_degreeLT) (C_mul_mem_degreeLT X_mem_degreeLT _)
    rw [locatorPoly, Finset.prod_insert hi, Finset.card_insert_of_notMem hi]
    exact degreeLT_mono (by omega) (mul_mem_degreeLT hfactor ih)

theorem evaluatorPoly_mem (E : Finset Nat) (x a : Nat → K) : evaluatorPoly E x a ∈ degreeLT K E.card := by
  refine Submodule.sum_mem _ fun i hi => C_mul_mem_degreeLT ?_ _
  have hcard := Finset.card_erase_add_one hi
  exact degreeLT_mono (by omega) (locatorPoly_mem (E.erase i) x)

theorem locatorPoly_eq_erase_mul {i : Nat} (hi : i ∈ E) :
    locatorPoly E x = locatorPoly (E.erase i) x * (1 - C (x i) * X) :=
  (Finset.prod_erase_mul E _ hi).symm

/-- The locator vanishes at the inverse of `y` exactly when `y` is the position of an error. -/
theorem eval_locatorPoly_inv_eq_zero_iff {y : K} (hy : y ≠ 0) :
    (locatorPoly E x).eval y⁻¹ = 0 ↔ ∃ i ∈ E, x i = y := by
  rw [eval_locatorPoly, Finset.prod_eq_zero_iff]
  refine exists_congr fun i => and_congr_right fun _ => ?_
  rw [sub_eq_zero, eq_comm, mul_inv_eq_one₀ hy]

/-- At the inverse of an error's position only that error's term of the evaluator is left. -/
theorem eval_evaluatorPoly_inv {k : Nat} (hk : k ∈ E) (hx : x k ≠ 0) :
    (evaluatorPoly E x a).eval (x k)⁻¹ = a k * (locatorPoly (E.erase k) x).eval (x k)⁻¹ := by
  rw [eval_evaluatorPoly]
  refine Finset.sum_eq_single_of_mem k hk fun i _ hik => ?_
  have hroot : (locatorPoly (E.erase i) x).eval (x k)⁻¹ = 0 :=
    (eval_locatorPoly_inv_eq_zero_iff hx).mpr ⟨k, Finset.mem_erase.mpr ⟨hik.symm, hk⟩, rfl⟩
  rw [hroot, mul_zero]

/-- The roots of the locator are simple. -/
theorem eval_locatorPoly_erase_inv_ne_zero {k : Nat} (hk : k ∈ E) (hinj : Set.InjOn x E) (hx : x k ≠ 0) :
    (locatorPoly (E.erase k) x).eval (x k)⁻¹ ≠ 0 := by
  intro hzero
  obtain ⟨i, hi, hxi⟩ := (eval_locatorPoly_inv_eq_zero_iff hx).mp hzero
  obtain ⟨hne, hiE⟩ := Finset.mem_erase.mp hi
  exact hne (hinj hiE hk hxi)

theorem derivative_locatorPoly (E : Finset Nat) (x : Nat → K) :
    Polynomial.derivative (locatorPoly E x) = evaluatorPoly E x fun i => -x i := by
  rw [locatorPoly, derivative_prod_finset, evaluatorPoly]
  refine Finset.sum_congr rfl fun i _ => ?_
  have hfactor : Polynomial.derivative (1 - C (x i) * X) = C (-x i) := by simp
  rw [hfactor, mul_comm, locatorPoly]

/-- Forney's formula (R151): the weight of an error from the evaluator and the derivative of the locator. -/
theorem eval_evaluatorPoly_div_derivative {k : Nat} (hk : k ∈ E) (hinj : Set.InjOn x E) (hx : x k ≠ 0) :
    (evaluatorPoly E x a).eval (x k)⁻¹ * ((Polynomial.derivative (locatorPoly E x)).eval (x k)⁻¹)⁻¹ =
      -(a k * (x k)⁻¹) := by
  have hsimple := eval_locatorPoly_erase_inv_ne_zero hk hinj hx
  rw [derivative_locatorPoly, eval_evaluatorPoly_inv hk hx, eval_evaluatorPoly_inv hk hx, mul_inv, mul_mul_mul_comm,
    mul_inv_cancel₀ hsimple, mul_one, inv_neg, mul_neg]

/-- The locator is determined by its degree, its roots and its value at 0. -/
theorem eq_locatorPoly_of_roots {f : K[X]} (hf : f ∈ degreeLT K (E.card + 1)) (hzero : f.coeff 0 = 1)
    (hinj : Set.InjOn x E) (hx : ∀ i ∈ E, x i ≠ 0) (hroots : ∀ i ∈ E, f.eval (x i)⁻¹ = 0) : f = locatorPoly E x := by
  classical
  have hinjInv : Set.InjOn (fun i => (x i)⁻¹) E := fun i hi j hj hij => hinj hi hj (inv_injective hij)
  have hcard : (insert 0 (E.image fun i => (x i)⁻¹)).card = E.card + 1 := by
    rw [Finset.card_insert_of_notMem, Finset.card_image_of_injOn hinjInv]
    intro hmem
    obtain ⟨i, hi, hinv⟩ := Finset.mem_image.mp hmem
    exact hx i hi (inv_eq_zero.mp hinv)
  refine sub_eq_zero.mp (eq_zero_of_degree_lt_of_eval_finset_eq_zero (insert 0 (E.image fun i => (x i)⁻¹)) ?_ ?_)
  · rw [hcard]
    exact mem_degreeLT.mp (Submodule.sub_mem _ hf (locatorPoly_mem E x))
  · intro v hv
    rw [eval_sub, sub_eq_zero]
    obtain rfl | hv := Finset.mem_insert.mp hv
    · rw [← coeff_zero_eq_eval_zero, ← coeff_zero_eq_eval_zero, hzero, coeff_zero_locatorPoly]
    · obtain ⟨i, hi, rfl⟩ := Finset.mem_image.mp hv
      rw [hroots i hi, (eval_locatorPoly_inv_eq_zero_iff (hx i hi)).mpr ⟨i, hi, rfl⟩]

/-- The key equation: modulo `X^n`, the locator times the syndromes is the evaluator (R151). -/
theorem X_pow_dvd_locatorPoly_mul {S : K[X]} {n : Nat} (hS : ∀ j, j < n → S.coeff j = ∑ i ∈ E, a i * x i ^ j) :
    X ^ n ∣ locatorPoly E x * S - evaluatorPoly E x a := by
  have hseries : X ^ n ∣ S - ∑ i ∈ E, C (a i) * ∑ j ∈ Finset.range n, (C (x i) * X) ^ j := by
    refine X_pow_dvd_iff.mpr fun j hj => ?_
    rw [coeff_sub, hS j hj, finsetSum_coeff, sub_eq_zero]
    refine Finset.sum_congr rfl fun i _ => ?_
    rw [coeff_C_mul, finsetSum_coeff, Finset.sum_eq_single_of_mem j (Finset.mem_range.mpr hj)]
    · rw [mul_pow, ← C_pow, coeff_C_mul_X_pow, if_pos rfl]
    · intro k _ hkj
      rw [mul_pow, ← C_pow, coeff_C_mul_X_pow, if_neg hkj.symm]
  have hterm : ∀ i ∈ E, locatorPoly E x * (C (a i) * ∑ j ∈ Finset.range n, (C (x i) * X) ^ j) -
      C (a i) * locatorPoly (E.erase i) x = X ^ n * -(C (a i) * locatorPoly (E.erase i) x * C (x i) ^ n) := by
    intro i hi
    have hgeom := mul_neg_geom_sum (C (x i) * X) n
    rw [locatorPoly_eq_erase_mul hi]
    linear_combination (C (a i) * locatorPoly (E.erase i) x) * hgeom
  have hsplit : locatorPoly E x * S - evaluatorPoly E x a =
      locatorPoly E x * (S - ∑ i ∈ E, C (a i) * ∑ j ∈ Finset.range n, (C (x i) * X) ^ j) +
        ∑ i ∈ E, (locatorPoly E x * (C (a i) * ∑ j ∈ Finset.range n, (C (x i) * X) ^ j) -
          C (a i) * locatorPoly (E.erase i) x) := by
    rw [Finset.sum_sub_distrib, ← Finset.mul_sum, evaluatorPoly]
    ring
  rw [hsplit]
  exact dvd_add (hseries.mul_left _) (Finset.dvd_sum fun i hi => ⟨_, hterm i hi⟩)

/-! ### The pairs that the loop keeps -/

/-- `conn` generates the first `n` syndromes with a register of length `len`, and `num` is its numerator in the key
equation (R146). -/
def SolvesKey (S : K[X]) (n len : Nat) (conn num : K[X]) : Prop :=
  conn.coeff 0 = 1 ∧ conn ∈ degreeLT K (len + 1) ∧ num ∈ degreeLT K len ∧ X ^ n ∣ conn * S - num

/-- `prev` solves the key equation for the first `n` syndromes too, and misses the next one by `disc`; it vanishes at 0,
where a solution is 1. -/
def MissesKey (S : K[X]) (n len : Nat) (disc : K) (prev prevNum : K[X]) : Prop :=
  prev.coeff 0 = 0 ∧ prev ∈ degreeLT K (len + 1) ∧ prevNum ∈ degreeLT K len ∧
    X ^ (n + 1) ∣ prev * S - prevNum - C disc * X ^ n

variable {S conn num prev prevNum : K[X]} {n len k : Nat} {disc d : K}

/-- The discrepancy `d` of a turn is what `conn` misses at the next syndrome. -/
theorem SolvesKey.next_dvd (h : SolvesKey S n len conn num) (hlen : len ≤ n) (hd : d = (conn * S).coeff n) :
    X ^ (n + 1) ∣ conn * S - num - C d * X ^ n := by
  obtain ⟨-, -, hnum, hkey⟩ := h
  refine X_pow_dvd_iff.mpr fun j hj => ?_
  rw [coeff_sub, coeff_C_mul, coeff_X_pow]
  obtain rfl | hlt : j = n ∨ j < n := by omega
  · rw [if_pos rfl, mul_one, coeff_sub, coeff_eq_zero_of_mem_degreeLT hnum hlen, sub_zero, hd, sub_self]
  · rw [if_neg hlt.ne, mul_zero, sub_zero]
    exact X_pow_dvd_iff.mp hkey j hlt

/-- Without a discrepancy `conn` generates one syndrome more. -/
theorem SolvesKey.keep (h : SolvesKey S n len conn num) (hlen : len ≤ n) (hd : (conn * S).coeff n = 0) :
    SolvesKey S (n + 1) len conn num := by
  have hnext := h.next_dvd hlen hd.symm
  rw [C_0, zero_mul, sub_zero] at hnext
  obtain ⟨hzero, hconn, hnum, -⟩ := h
  exact ⟨hzero, hconn, hnum, hnext⟩

/-- A correction with `prev` cancels the discrepancy, for a register as long as either needs. -/
theorem SolvesKey.correct (h : SolvesKey S n len conn num) (h' : MissesKey S n k disc prev prevNum) (hlen : len ≤ n)
    (hdisc : disc ≠ 0) (hd : d = (conn * S).coeff n) {len' : Nat} (hle : len ≤ len') (hle' : k ≤ len') :
    SolvesKey S (n + 1) len' (conn - C (d * disc⁻¹) * prev) (num - C (d * disc⁻¹) * prevNum) := by
  have hnext := h.next_dvd hlen hd
  obtain ⟨hzero, hconn, hnum, -⟩ := h
  obtain ⟨hzero', hprev, hprevNum, hmiss⟩ := h'
  have hcancel : C (d * disc⁻¹) * C disc = C d := by rw [← C_mul, mul_assoc, inv_mul_cancel₀ hdisc, mul_one]
  have hsplit : (conn - C (d * disc⁻¹) * prev) * S - (num - C (d * disc⁻¹) * prevNum) =
      (conn * S - num - C d * X ^ n) - C (d * disc⁻¹) * (prev * S - prevNum - C disc * X ^ n) := by
    linear_combination (-X ^ n) * hcancel
  refine ⟨?_, ?_, ?_, ?_⟩
  · rw [coeff_sub, coeff_C_mul, hzero, hzero', mul_zero, sub_zero]
  · exact Submodule.sub_mem _ (degreeLT_mono (by omega) hconn) (C_mul_mem_degreeLT (degreeLT_mono (by omega) hprev) _)
  · exact Submodule.sub_mem _ (degreeLT_mono hle hnum) (C_mul_mem_degreeLT (degreeLT_mono hle' hprevNum) _)
  · rw [hsplit]
    exact dvd_sub hnext (hmiss.mul_left _)

/-- A shift by one place goes with the shift to the next syndrome. -/
theorem X_pow_succ_dvd_shift (h : X ^ (n + 1) ∣ prev * S - prevNum - C d * X ^ n) :
    X ^ (n + 1 + 1) ∣ X * prev * S - X * prevNum - C d * X ^ (n + 1) := by
  have hshift : X * prev * S - X * prevNum - C d * X ^ (n + 1) = X * (prev * S - prevNum - C d * X ^ n) := by ring
  rw [hshift, pow_succ' X (n + 1)]
  exact mul_dvd_mul_left X h

theorem MissesKey.shift (h : MissesKey S n k disc prev prevNum) :
    MissesKey S (n + 1) (k + 1) disc (X * prev) (X * prevNum) := by
  obtain ⟨-, hprev, hprevNum, hmiss⟩ := h
  exact ⟨coeff_X_mul_zero prev, X_mul_mem_degreeLT hprev, X_mul_mem_degreeLT hprevNum, X_pow_succ_dvd_shift hmiss⟩

/-- A solution with a discrepancy becomes the pair for later corrections. -/
theorem SolvesKey.shift (h : SolvesKey S n len conn num) (hlen : len ≤ n) (hd : d = (conn * S).coeff n) :
    MissesKey S (n + 1) (len + 1) d (X * conn) (X * num) := by
  have hnext := h.next_dvd hlen hd
  obtain ⟨-, hconn, hnum, -⟩ := h
  exact ⟨coeff_X_mul_zero conn, X_mul_mem_degreeLT hconn, X_mul_mem_degreeLT hnum, X_pow_succ_dvd_shift hnext⟩

/-- What holds before turn `n` of the loop of R145, with `C = conn`, `x^m B = prev`, `L = len` and `b = disc`: `conn`
is a solution, `prev` misses by `disc`, and the two pairs are independent. -/
def KeyEquations (S : K[X]) (n len : Nat) (disc : K) (conn num prev prevNum : K[X]) : Prop :=
  len ≤ n ∧ disc ≠ 0 ∧ SolvesKey S n len conn num ∧ MissesKey S n (n + 1 - len) disc prev prevNum ∧
    conn * prevNum - prev * num = -(C disc * X ^ n)

namespace KeyEquations

/-- Before the loop. -/
theorem start (S : K[X]) : KeyEquations S 0 0 1 1 0 X (-1) := by
  refine ⟨le_refl 0, one_ne_zero, ⟨coeff_one_zero, one_mem_degreeLT, Submodule.zero_mem _, one_dvd _⟩,
    ⟨coeff_X_zero, X_mem_degreeLT, Submodule.neg_mem _ one_mem_degreeLT, S, ?_⟩, ?_⟩
  · rw [C_1]; ring
  · rw [C_1]; ring

/-- A turn without a discrepancy. -/
theorem keep (h : KeyEquations S n len disc conn num prev prevNum) (hd : (conn * S).coeff n = 0) :
    KeyEquations S (n + 1) len disc conn num (X * prev) (X * prevNum) := by
  obtain ⟨hlen, hdisc, hsolves, hmisses, hdet⟩ := h
  refine ⟨hlen.trans (Nat.le_succ n), hdisc, hsolves.keep hlen hd, ?_, by linear_combination X * hdet⟩
  rw [Nat.sub_add_comm (by omega)]
  exact hmisses.shift

/-- A correction that keeps the register length. -/
theorem correct (h : KeyEquations S n len disc conn num prev prevNum) (hd : d = (conn * S).coeff n)
    (hlong : n < 2 * len) :
    KeyEquations S (n + 1) len disc (conn - C (d * disc⁻¹) * prev) (num - C (d * disc⁻¹) * prevNum) (X * prev)
      (X * prevNum) := by
  obtain ⟨hlen, hdisc, hsolves, hmisses, hdet⟩ := h
  refine ⟨hlen.trans (Nat.le_succ n), hdisc, hsolves.correct hmisses hlen hdisc hd (le_refl len) (by omega), ?_,
    by linear_combination X * hdet⟩
  rw [Nat.sub_add_comm (by omega)]
  exact hmisses.shift

/-- A correction that lengthens the register and keeps the old `conn` as the new `prev`. -/
theorem lengthen (h : KeyEquations S n len disc conn num prev prevNum) (hd : d = (conn * S).coeff n) (hne : d ≠ 0)
    (hshort : 2 * len ≤ n) :
    KeyEquations S (n + 1) (n + 1 - len) d (conn - C (d * disc⁻¹) * prev) (num - C (d * disc⁻¹) * prevNum) (X * conn)
      (X * num) := by
  obtain ⟨hlen, hdisc, hsolves, hmisses, hdet⟩ := h
  have hcancel : C (d * disc⁻¹) * C disc = C d := by rw [← C_mul, mul_assoc, inv_mul_cancel₀ hdisc, mul_one]
  refine ⟨Nat.sub_le .., hne, hsolves.correct hmisses hlen hdisc hd (by omega) (le_refl _), ?_,
    by linear_combination (X * C (d * disc⁻¹)) * hdet + (-X ^ (n + 1)) * hcancel⟩
  rw [show n + 1 + 1 - (n + 1 - len) = len + 1 by omega]
  exact hsolves.shift hlen hd

/-! ### The last pair -/

variable {loc ev : K[X]} {e : Nat}

/-- Two solutions of the key equation have equal cross products modulo `X^n`. -/
theorem cross_dvd {f g u v : K[X]} (hf : X ^ n ∣ f * S - u) (hg : X ^ n ∣ g * S - v) : X ^ n ∣ f * v - g * u := by
  have hsplit : f * v - g * u = g * (f * S - u) - f * (g * S - v) := by ring
  rw [hsplit]
  exact dvd_sub (hf.mul_left g) (hg.mul_left f)

/-- No other solution of the key equation is shorter (R146 (d)): a shorter one would have the cross product zero with
the earlier pair, which vanishes at 0 where every solution is 1. -/
theorem len_le_of_solvesKey (h : KeyEquations S n len disc conn num prev prevNum) (hloc : SolvesKey S n e loc ev) :
    len ≤ e := by
  by_contra hlt
  obtain ⟨hlen, hdisc, ⟨-, -, -, hkey⟩, ⟨hprevZero, hprev, hprevNum, hmiss⟩, hdet⟩ := h
  obtain ⟨hlocZero, hlocDegree, hev, hlocKey⟩ := hloc
  have hprevKey : X ^ n ∣ prev * S - prevNum := by
    have hlow := dvd_add (dvd_trans (pow_dvd_pow X (Nat.le_succ n)) hmiss) (dvd_mul_left (X ^ n) (C disc))
    rwa [sub_add_cancel] at hlow
  have hcross : prev * ev - loc * prevNum = 0 :=
    eq_zero_of_X_pow_dvd (cross_dvd hprevKey hlocKey)
      (Submodule.sub_mem _ (degreeLT_mono (by omega) (mul_mem_degreeLT hprev hev))
        (degreeLT_mono (by omega) (mul_mem_degreeLT hlocDegree hprevNum)))
  obtain ⟨quot, hquot⟩ := cross_dvd hkey hlocKey
  have hscaled : X ^ n * (prev * quot) = X ^ n * -(C disc * loc) := by
    linear_combination (-prev) * hquot + conn * hcross + loc * hdet
  have hcancelled := congrArg (fun f => f.coeff 0) (mul_left_cancel₀ (pow_ne_zero n X_ne_zero) hscaled)
  simp only [mul_coeff_zero, hprevZero, zero_mul, coeff_neg, coeff_C_zero, hlocZero, mul_one] at hcancelled
  exact hdisc (neg_eq_zero.mp hcancelled.symm)

/-- Within capacity the last pair is the error locator, and its length is the number of errors (R155). -/
theorem eq_locatorPoly (h : KeyEquations S n len disc conn num prev prevNum) (hcapacity : 2 * E.card ≤ n)
    (hinj : Set.InjOn x E) (hx : ∀ i ∈ E, x i ≠ 0) (ha : ∀ i ∈ E, a i ≠ 0)
    (hS : ∀ j, j < n → S.coeff j = ∑ i ∈ E, a i * x i ^ j) : len = E.card ∧ conn = locatorPoly E x := by
  have hkey := X_pow_dvd_locatorPoly_mul hS
  have hle : len ≤ E.card :=
    h.len_le_of_solvesKey ⟨coeff_zero_locatorPoly E x, locatorPoly_mem E x, evaluatorPoly_mem E x a, hkey⟩
  obtain ⟨-, -, ⟨hconnZero, hconn, hnum, hconnKey⟩, -, -⟩ := h
  have hcross : conn * evaluatorPoly E x a - locatorPoly E x * num = 0 :=
    eq_zero_of_X_pow_dvd (cross_dvd hconnKey hkey)
      (Submodule.sub_mem _ (degreeLT_mono (by omega) (mul_mem_degreeLT hconn (evaluatorPoly_mem E x a)))
        (degreeLT_mono (by omega) (mul_mem_degreeLT (locatorPoly_mem E x) hnum)))
  have hroots : ∀ i ∈ E, conn.eval (x i)⁻¹ = 0 := by
    intro i hi
    have hroot : (locatorPoly E x).eval (x i)⁻¹ = 0 :=
      (eval_locatorPoly_inv_eq_zero_iff (hx i hi)).mpr ⟨i, hi, rfl⟩
    have heval := congrArg (fun f => f.eval (x i)⁻¹) hcross
    simp only [eval_sub, eval_mul, eval_zero, hroot, zero_mul, sub_zero,
      eval_evaluatorPoly_inv hi (hx i hi)] at heval
    exact (mul_eq_zero.mp heval).resolve_right
      (mul_ne_zero (ha i hi) (eval_locatorPoly_erase_inv_ne_zero hi hinj (hx i hi)))
  have hinjInv : Set.InjOn (fun i => (x i)⁻¹) E := fun i hi j hj hij => hinj hi hj (inv_injective hij)
  have hge : E.card ≤ len := by
    by_contra hlt
    have hconnNull : conn = 0 :=
      eq_zero_of_degree_lt_of_eval_index_eq_zero E hinjInv (mem_degreeLT.mp (degreeLT_mono (by omega) hconn)) hroots
    exact one_ne_zero (hconnZero.symm.trans (by rw [hconnNull, coeff_zero]))
  exact ⟨le_antisymm hle hge, eq_locatorPoly_of_roots (degreeLT_mono (by omega) hconn) hconnZero hinj hx hroots⟩

end KeyEquations

end Sys2Proof.Machine
end

section
/-! PROOFS. The bytes of a legal polynomial read in a field (`40_gf256.md` R111 to R114, R117, R118): sums, products,
powers of `alpha`, inverses and polynomials of bytes as those of the field. -/

namespace Sys2Proof.Machine

open Polynomial Sys2Proof.Claims

/-- A map of the bytes into a field that takes `gf_add` and `gf_mul` to the field's sum and product. There is one for
every legal polynomial: `exists_fieldReading`. -/
structure FieldReading (poly : BitVec 9) (K : Type) [Field K] where
  val : Byte → K
  val_xor : ∀ a b, val (a ^^^ b) = val a + val b
  val_gfMul : ∀ a b, val (gfMul poly a b) = val a * val b
  val_one : val 1 = 1

/-- The bytes themselves are a field, by the laws of O22. -/
theorem exists_fieldReading {poly : BitVec 9} (h : poly ∈ legalPolynomials) :
    ∃ (K : Type) (_ : Field K), Nonempty (FieldReading poly K) := by
  let ring := gfRing (getLsbD_of_legal h)
  have hfield : IsField (Gf poly) :=
    { exists_pair_ne := ⟨(0 : Byte), (1 : Byte), (by decide : (0 : Byte) ≠ 1)⟩
      mul_comm := mul_comm
      mul_inv_cancel := fun {a} ha => ⟨gfInv poly a, gfMul_gfInv h ha⟩ }
  let _ := hfield.toField
  exact ⟨Gf poly, hfield.toField, ⟨⟨id, fun _ _ => rfl, fun _ _ => rfl, rfl⟩⟩⟩

namespace FieldReading

variable {poly : BitVec 9} {K : Type} [Field K] (φ : FieldReading poly K)

/-! ### Field elements -/

theorem val_zero : φ.val 0 = 0 := by
  have hsum : φ.val 0 = φ.val 0 + φ.val 0 := φ.val_xor 0 0
  exact left_eq_add.mp hsum

include φ in
theorem add_self_eq_zero (y : K) : y + y = 0 := by
  have htwo : (1 : K) + 1 = 0 := by
    rw [← φ.val_one, ← φ.val_xor, BitVec.xor_self]
    exact φ.val_zero
  linear_combination y * htwo

include φ in
theorem neg_eq_self (y : K) : -y = y := neg_eq_of_add_eq_zero_left (φ.add_self_eq_zero y)

theorem val_xorSum (k : Nat) (f : Nat → Byte) : φ.val (xorSum k f) = ∑ i ∈ Finset.range k, φ.val (f i) := by
  induction k with
  | zero => exact φ.val_zero
  | succ k ih => rw [xorSum_succ, φ.val_xor, ih, Finset.sum_range_succ]

theorem val_gfPow (a : Byte) (n : Nat) : φ.val (gfPow poly a n) = φ.val a ^ n := by
  induction n with
  | zero => rw [gfPow_zero, φ.val_one, pow_zero]
  | succ n ih => rw [gfPow_succ, φ.val_gfMul, ih, pow_succ]

section Legal

variable (h : poly ∈ legalPolynomials)
include h

theorem val_mul_val_gfInv {a : Byte} (ha : a ≠ 0) : φ.val a * φ.val (gfInv poly a) = 1 := by
  rw [← φ.val_gfMul, gfMul_gfInv h ha, φ.val_one]

theorem val_eq_zero_iff {a : Byte} : φ.val a = 0 ↔ a = 0 := by
  constructor
  · intro hzero
    by_contra ha
    have hone := φ.val_mul_val_gfInv h ha
    rw [hzero, zero_mul] at hone
    exact zero_ne_one hone
  · rintro rfl
    exact φ.val_zero

theorem val_injective : Function.Injective φ.val := by
  intro a b hab
  have hzero : φ.val (a ^^^ b) = 0 := by rw [φ.val_xor, hab, φ.add_self_eq_zero]
  exact BitVec.xor_eq_zero_iff.mp ((φ.val_eq_zero_iff h).mp hzero)

theorem val_gfInv (a : Byte) : φ.val (gfInv poly a) = (φ.val a)⁻¹ := by
  by_cases ha : a = 0
  · rw [ha, φ.val_zero, inv_zero, gfInv_eq, φ.val_gfPow, φ.val_zero]
    exact zero_pow (by decide)
  · exact eq_inv_of_mul_eq_one_right (φ.val_mul_val_gfInv h ha)

theorem val_alpha_ne_zero : φ.val alpha ≠ 0 := fun hzero =>
  absurd ((φ.val_eq_zero_iff h).mp hzero) (by decide)

/-- `gf_exp` is the power for every integer exponent (R113). -/
theorem val_gfExp (e : Int) : φ.val (gfExp poly e) = φ.val alpha ^ e := by
  have hne := φ.val_alpha_ne_zero h
  have hperiod : φ.val alpha ^ (255 : Int) = 1 := by
    rw [show (255 : Int) = ((255 : Nat) : Int) by rfl, zpow_natCast, ← φ.val_gfPow, gfPow_alpha_255 h, φ.val_one]
  have hmod : ((e % 255).toNat : Int) = e % 255 := Int.toNat_of_nonneg (Int.emod_nonneg e (by decide))
  conv_rhs => rw [← Int.emod_add_mul_ediv e 255, zpow_add₀ hne, zpow_mul, hperiod, one_zpow, mul_one, ← hmod]
  rw [gfExp_eq, φ.val_gfPow, zpow_natCast]

/-- The powers of `alpha` at the degrees of a buffer are distinct (R113). -/
theorem alpha_zpow_injective {n i j : Nat} (hn : n ≤ 255) (hi : i < n) (hj : j < n)
    (hij : φ.val alpha ^ degreeOf n i = φ.val alpha ^ degreeOf n j) : i = j := by
  have hdegree : ∀ k, k < n → degreeOf n k = ((n - 1 - k : Nat) : Int) := by
    intro k hk
    change (n : Int) - 1 - k = _
    omega
  rw [hdegree i hi, hdegree j hj, zpow_natCast, zpow_natCast, ← φ.val_gfPow, ← φ.val_gfPow] at hij
  have hpow := gfPow_alpha_injective h (by omega) (by omega) (φ.val_injective h hij)
  omega

end Legal

/-! ### Polynomials -/

/-- The polynomial of a list of bytes, lowest degree first (R117). -/
noncomputable def toPoly (p : List Byte) : K[X] := listPoly (p.map φ.val)

theorem coeff_toPoly (p : List Byte) (i : Nat) : (φ.toPoly p).coeff i = φ.val (p.getD i 0) := by
  have hmap : (p.map φ.val).getD i 0 = φ.val (p.getD i 0) := by
    rw [← φ.val_zero]
    exact List.getD_map ..
  rw [toPoly, coeff_listPoly, hmap]

theorem coeff_toPoly_of_le {p : List Byte} {i : Nat} (hi : p.length ≤ i) : (φ.toPoly p).coeff i = 0 := by
  rw [φ.coeff_toPoly, List.getD_eq_default p 0 hi, φ.val_zero]

/-- `poly_eval` is the value of the polynomial (R118). -/
theorem val_polyEval (p : List Byte) (v : Byte) : φ.val (polyEval poly p v) = (φ.toPoly p).eval (φ.val v) := by
  induction p with
  | nil => rw [polyEval_nil, φ.val_zero, toPoly, List.map_nil, listPoly_nil, eval_zero]
  | cons b p ih =>
    rw [polyEval_cons, φ.val_xor, φ.val_gfMul, ih, toPoly, toPoly, List.map_cons, listPoly_cons, eval_add, eval_mul,
      eval_X, eval_C]

/-- `derivative` is the formal derivative, in which the even coefficients vanish (R119). -/
theorem toPoly_derivative (p : List Byte) : φ.toPoly (derivative p) = Polynomial.derivative (φ.toPoly p) := by
  ext i
  have htail : p.tail.getD i 0 = p.getD (i + 1) 0 := by cases p <;> rfl
  rw [coeff_derivative, φ.coeff_toPoly, φ.coeff_toPoly, Machine.derivative, keepOdd_getD, htail]
  have heven : ∀ k : Nat, ((2 * k : Nat) : K) = 0 := fun k => by rw [two_mul, Nat.cast_add, φ.add_self_eq_zero]
  obtain ⟨k, rfl | rfl⟩ := Nat.even_or_odd' i
  · rw [heven, zero_add, mul_one, Nat.mul_mod_right]
    rfl
  · have hcast : ((2 * k + 1 : Nat) : K) + 1 = 0 := (Nat.cast_succ (2 * k + 1)).symm.trans (heven (k + 1))
    rw [hcast, mul_zero, Nat.mul_add_mod]
    exact φ.val_zero

end FieldReading

end Sys2Proof.Machine
end

section
/-! PROOFS. The loop of `RS_KES` (`41_rs_commands.md` R145, R146) in a field: each turn keeps the key equations, so that
within capacity the loop ends with the error locator. -/

namespace Sys2Proof.Machine

open Polynomial Sys2Proof.Claims

/-! ### A turn of the loop -/

section Turn

variable {poly : BitVec 9} {syn : List Byte} {k : KeySolver} {n : Nat} {d : Byte}

theorem keyTurn_keep (hd : discrepancy poly syn k.conn k.len n = 0) :
    keyTurn poly syn k n = { k with gap := k.gap + 1 } := if_pos hd

theorem keyTurn_lengthen (hd : discrepancy poly syn k.conn k.len n = d) (hne : d ≠ 0) (hlen : 2 * k.len ≤ n) :
    keyTurn poly syn k n =
      { conn := shiftAdd poly k.conn (gfMul poly d (gfInv poly k.disc)) k.prev k.gap, prev := k.conn
        len := n + 1 - k.len, gap := 1, disc := d } := by
  subst hd
  exact (if_neg hne).trans (if_pos hlen)

theorem keyTurn_correct (hd : discrepancy poly syn k.conn k.len n = d) (hne : d ≠ 0) (hlen : n < 2 * k.len) :
    keyTurn poly syn k n =
      { k with conn := shiftAdd poly k.conn (gfMul poly d (gfInv poly k.disc)) k.prev k.gap, gap := k.gap + 1 } := by
  subst hd
  exact (if_neg hne).trans (if_neg hlen.not_ge)

end Turn

theorem solveKey_zero (c : Config) (syn : List Byte) : solveKey c syn 0 = keyStart c := rfl

theorem solveKey_succ (c : Config) (syn : List Byte) (n : Nat) :
    solveKey c syn (n + 1) = keyTurn c.primPoly syn (solveKey c syn n) n := by
  simp [solveKey, List.range_succ]

theorem shiftAdd_length (poly : BitVec 9) (coef : Byte) {conn prev : List Byte} (hlength : prev.length = conn.length)
    (gap : Nat) : (shiftAdd poly conn coef prev gap).length = conn.length := by
  simp [shiftAdd, hlength]

theorem shiftAdd_getD (poly : BitVec 9) (coef : Byte) {conn prev : List Byte} (hlength : prev.length = conn.length)
    (gap : Nat) {i : Nat} (hi : i < conn.length) :
    (shiftAdd poly conn coef prev gap).getD i 0 =
      conn.getD i 0 ^^^ if gap ≤ i then gfMul poly coef (prev.getD (i - gap) 0) else 0 := by
  have hi' : i < (shiftAdd poly conn coef prev gap).length := by rwa [shiftAdd_length poly coef hlength]
  rw [List.getD_eq_getElem _ 0 hi', List.getD_eq_getElem _ 0 hi]
  simp only [shiftAdd, List.getElem_zipWith, List.getElem_append, List.length_replicate]
  split_ifs with hlt hge hge
  · omega
  · simp
  · rw [List.getElem_map, List.getD_eq_getElem _ 0 (by omega)]
  · omega

/-- The discrepancy as a sum (R145). -/
theorem discrepancy_eq_xorSum (poly : BitVec 9) (syn conn : List Byte) (len n : Nat) :
    discrepancy poly syn conn len n =
      syn.getD n 0 ^^^ xorSum len fun i => gfMul poly (conn.getD (i + 1) 0) (syn.getD (n - (i + 1)) 0) := by
  have hfoldl : ∀ (f : Nat → Byte) (start : Byte) (m : Nat),
      (List.range m).foldl (fun acc i => acc ^^^ f i) start = start ^^^ xorSum m f := by
    intro f start m
    induction m with
    | zero => exact BitVec.xor_zero.symm
    | succ m ih => rw [List.range_succ, List.foldl_append, ih, xorSum_succ, ← BitVec.xor_assoc]; rfl
  exact hfoldl _ _ len

namespace FieldReading

variable {poly : BitVec 9} {K : Type} [Field K] (φ : FieldReading poly K)

/-- The discrepancy is the next coefficient of `conn` times the syndromes. -/
theorem val_discrepancy {syn conn : List Byte} {len n : Nat} (hlen : len ≤ n)
    (hzero : (φ.toPoly conn).coeff 0 = 1) (hconn : φ.toPoly conn ∈ degreeLT K (len + 1)) :
    φ.val (discrepancy poly syn conn len n) = (φ.toPoly conn * φ.toPoly syn).coeff n := by
  have hterms : ∑ i ∈ Finset.range len, φ.val (gfMul poly (conn.getD (i + 1) 0) (syn.getD (n - (i + 1)) 0)) =
      ∑ i ∈ Finset.range n, (φ.toPoly conn).coeff (i + 1) * (φ.toPoly syn).coeff (n - (i + 1)) := by
    simp only [φ.val_gfMul, ← φ.coeff_toPoly]
    refine Finset.sum_subset (Finset.range_subset_range.mpr hlen) fun i _ hi => ?_
    rw [coeff_eq_zero_of_mem_degreeLT hconn (by simpa using hi), zero_mul]
  rw [discrepancy_eq_xorSum, φ.val_xor, φ.val_xorSum, hterms, coeff_mul,
    Finset.Nat.sum_antidiagonal_eq_sum_range_succ fun i j => (φ.toPoly conn).coeff i * (φ.toPoly syn).coeff j,
    Finset.sum_range_succ', hzero, one_mul, Nat.sub_zero, φ.coeff_toPoly syn n, add_comm]

/-- The correction of R145, as long as the shifted polynomial fits the array. -/
theorem toPoly_shiftAdd {conn prev : List Byte} (hlength : prev.length = conn.length) {gap : Nat}
    (hfits : X ^ gap * φ.toPoly prev ∈ degreeLT K conn.length) (coef : Byte) :
    φ.toPoly (shiftAdd poly conn coef prev gap) = φ.toPoly conn - C (φ.val coef) * (X ^ gap * φ.toPoly prev) := by
  ext i
  rw [coeff_sub, coeff_C_mul, sub_eq_add_neg, φ.neg_eq_self]
  obtain hlt | hge := Nat.lt_or_ge i conn.length
  · rw [φ.coeff_toPoly, shiftAdd_getD poly coef hlength gap hlt, φ.val_xor, ← φ.coeff_toPoly, coeff_X_pow_mul']
    split_ifs
    · rw [φ.val_gfMul, ← φ.coeff_toPoly]
    · rw [φ.val_zero, mul_zero]
  · rw [φ.coeff_toPoly_of_le hge, coeff_eq_zero_of_mem_degreeLT hfits hge, mul_zero, add_zero,
      φ.coeff_toPoly_of_le (by rwa [shiftAdd_length poly coef hlength])]

theorem toPoly_one_replicate (k : Nat) : φ.toPoly (1 :: List.replicate k 0) = 1 := by
  ext i
  rw [φ.coeff_toPoly, coeff_one]
  cases i with
  | zero => exact φ.val_one
  | succ i =>
    have hzero : (List.replicate k (0 : Byte)).getD i 0 = 0 := by simp [List.getD]
    rw [List.getD_cons_succ, hzero, φ.val_zero, if_neg i.succ_ne_zero]

end FieldReading

/-! ### The loop's invariant -/

section Loop

variable {c : Config} {K : Type} [Field K] (φ : FieldReading c.primPoly K)

/-- The loop's variables before turn `n`: two arrays of `NSYM_MAX + 1` entries that keep the key equations. -/
def KeyInvariant (syn : List Byte) (n : Nat) (k : KeySolver) : Prop :=
  k.conn.length = c.nsymMax + 1 ∧ k.prev.length = c.nsymMax + 1 ∧ ∃ num prevNum : K[X],
    KeyEquations (φ.toPoly syn) n k.len (φ.val k.disc) (φ.toPoly k.conn) num (X ^ k.gap * φ.toPoly k.prev) prevNum

theorem keyStart_invariant (syn : List Byte) : KeyInvariant φ syn 0 (keyStart c) := by
  have hone : φ.toPoly (keyStart c).conn = 1 := φ.toPoly_one_replicate c.nsymMax
  have hprev : X ^ (keyStart c).gap * φ.toPoly (keyStart c).prev = X := by
    rw [show φ.toPoly (keyStart c).prev = 1 from φ.toPoly_one_replicate c.nsymMax]
    exact (mul_one _).trans (pow_one X)
  refine ⟨by simp [keyStart], by simp [keyStart], 0, -1, ?_⟩
  rw [hone, hprev, show φ.val (keyStart c).disc = 1 from φ.val_one]
  exact KeyEquations.start _

/-- Each turn within the array keeps the invariant; the three cases are those of R145's loop body. -/
theorem keyTurn_invariant {syn : List Byte} {n : Nat} {k : KeySolver} (hn : n < c.nsymMax)
    (h : KeyInvariant φ syn n k) : KeyInvariant φ syn (n + 1) (keyTurn c.primPoly syn k n) := by
  obtain ⟨hconn, hprev, num, prevNum, heq⟩ := h
  have hlength : k.prev.length = k.conn.length := hprev.trans hconn.symm
  obtain ⟨hlen, -, ⟨hzero, hdegree, -⟩, ⟨-, hprevDegree, -⟩, -⟩ := id heq
  have hdisc := φ.val_discrepancy (syn := syn) hlen hzero hdegree
  generalize hd : discrepancy c.primPoly syn k.conn k.len n = d at hdisc
  have hfits : X ^ k.gap * φ.toPoly k.prev ∈ degreeLT K k.conn.length := degreeLT_mono (by omega) hprevDegree
  have hcorrected : φ.toPoly (shiftAdd c.primPoly k.conn (gfMul c.primPoly d (gfInv c.primPoly k.disc)) k.prev k.gap) =
      φ.toPoly k.conn - C (φ.val d * (φ.val k.disc)⁻¹) * (X ^ k.gap * φ.toPoly k.prev) := by
    rw [φ.toPoly_shiftAdd hlength hfits, φ.val_gfMul, φ.val_gfInv c.primPoly_legal]
  have hshift : X ^ (k.gap + 1) * φ.toPoly k.prev = X * (X ^ k.gap * φ.toPoly k.prev) := by ring
  by_cases hnull : d = 0
  · rw [keyTurn_keep (hd.trans hnull)]
    refine ⟨hconn, hprev, num, X * prevNum, ?_⟩
    rw [hshift]
    exact heq.keep (hdisc.symm.trans (by rw [hnull, φ.val_zero]))
  have hne : φ.val d ≠ 0 := fun h => hnull ((φ.val_eq_zero_iff c.primPoly_legal).mp h)
  obtain hlong | hshort := Nat.lt_or_ge n (2 * k.len)
  · rw [keyTurn_correct hd hnull hlong]
    refine ⟨(shiftAdd_length _ _ hlength _).trans hconn, hprev, num - C (φ.val d * (φ.val k.disc)⁻¹) * prevNum,
      X * prevNum, ?_⟩
    rw [hshift, hcorrected]
    exact heq.correct hdisc hlong
  · rw [keyTurn_lengthen hd hnull hshort]
    refine ⟨(shiftAdd_length _ _ hlength _).trans hconn, hconn, num - C (φ.val d * (φ.val k.disc)⁻¹) * prevNum, X * num,
      ?_⟩
    rw [hcorrected, pow_one]
    exact heq.lengthen hdisc hne hshort

theorem solveKey_invariant (syn : List Byte) {nsym : Nat} (h : nsym ≤ c.nsymMax) :
    KeyInvariant φ syn nsym (solveKey c syn nsym) := by
  induction nsym with
  | zero => exact keyStart_invariant φ syn
  | succ n ih =>
    rw [solveKey_succ]
    exact keyTurn_invariant φ h (ih (by omega))

end Loop

end Sys2Proof.Machine
end

section
/-! PROOFS. Decoding within capacity (`41_rs_commands.md` R144, R147, R150, R151, R155): for a received word that
differs from a codeword in at most half of `RS_NSYM` places, the loop's length is the number of errors, the root
positions are the errors' positions, and Forney's values are the differences. -/

namespace Sys2Proof.Machine

open Polynomial Sys2Proof.Claims

/-! ### Received words -/

/-- The buffer indices at which two words differ, in ascending order. -/
def errorPositions (r w : List Byte) : List Nat :=
  (List.range r.length).filter fun i => r.getD i 0 != w.getD i 0

theorem mem_errorPositions {r w : List Byte} {i : Nat} :
    i ∈ errorPositions r w ↔ i < r.length ∧ r.getD i 0 ≠ w.getD i 0 := by
  simp [errorPositions]

theorem errorPositions_nodup (r w : List Byte) : (errorPositions r w).Nodup := List.nodup_range.filter _

/-- The received word `r` is within capacity of the codeword `w` (R155). -/
structure WithinCapacity (c : Config) (r w : List Byte) (nsym : Nat) : Prop where
  length_eq : w.length = r.length
  length_le : r.length ≤ 255
  nsym_le : nsym ≤ c.nsymMax
  codeword : ∀ j, j < nsym → syndrome c w j = 0
  capacity : 2 * (errorPositions r w).length ≤ nsym

/-- The error positions as a set. -/
def errorSet (r w : List Byte) : Finset Nat := (errorPositions r w).toFinset

theorem mem_errorSet {r w : List Byte} {i : Nat} : i ∈ errorSet r w ↔ i ∈ errorPositions r w := List.mem_toFinset

theorem card_errorSet (r w : List Byte) : (errorSet r w).card = (errorPositions r w).length :=
  List.toFinset_card_of_nodup (errorPositions_nodup r w)

/-! ### Reading the errors in a field -/

section Errors

variable {c : Config} {K : Type} [Field K] (φ : FieldReading c.primPoly K)

/-- `alpha^p(i)`, the locator of buffer index `i` in a word of `n` bytes (R140, R147). -/
noncomputable def errorLocator (n i : Nat) : K := φ.val alpha ^ degreeOf n i

/-- What the error at index `i` contributes to syndrome 0 (R142). -/
noncomputable def errorWeight (r w : List Byte) (i : Nat) : K :=
  φ.val (r.getD i 0 ^^^ w.getD i 0) * errorLocator φ r.length i ^ c.fcr

theorem errorLocator_ne_zero (n i : Nat) : errorLocator φ n i ≠ 0 :=
  zpow_ne_zero _ (φ.val_alpha_ne_zero c.primPoly_legal)

theorem errorLocator_injective {n i j : Nat} (hn : n ≤ 255) (hi : i < n) (hj : j < n)
    (hij : errorLocator φ n i = errorLocator φ n j) : i = j := φ.alpha_zpow_injective c.primPoly_legal hn hi hj hij

theorem val_gfExp_degreeOf_neg (n i : Nat) : φ.val (gfExp c.primPoly (-degreeOf n i)) = (errorLocator φ n i)⁻¹ := by
  rw [φ.val_gfExp c.primPoly_legal, zpow_neg, errorLocator]

/-- A syndrome as a sum of powers of the locators (R142). -/
theorem val_syndrome (w : List Byte) (j : Nat) :
    φ.val (syndrome c w j) =
      ∑ i ∈ Finset.range w.length, φ.val (w.getD i 0) * errorLocator φ w.length i ^ (c.fcr + j) := by
  rw [syndrome_eq_xorSum, φ.val_xorSum]
  refine Finset.sum_congr rfl fun i _ => ?_
  have hexponent : (c.fcr + j : Int) * ((w.length : Int) - 1 - i) =
      degreeOf w.length i * ((c.fcr + j : Nat) : Int) := by
    rw [Int.mul_comm, Nat.cast_add]
    rfl
  rw [φ.val_gfMul, φ.val_gfExp c.primPoly_legal, hexponent, zpow_mul, zpow_natCast, errorLocator]

variable {r w : List Byte} {nsym : Nat}

theorem errorLocator_injOn (h : WithinCapacity c r w nsym) :
    Set.InjOn (errorLocator φ r.length) (errorSet r w) := by
  intro i hi j hj hij
  have hi' := (mem_errorPositions.mp (mem_errorSet.mp hi)).1
  have hj' := (mem_errorPositions.mp (mem_errorSet.mp hj)).1
  exact errorLocator_injective φ h.length_le hi' hj' hij

theorem errorWeight_ne_zero {i : Nat} (hi : i ∈ errorSet r w) : errorWeight φ r w i ≠ 0 := by
  refine mul_ne_zero (fun hzero => ?_) (pow_ne_zero _ (errorLocator_ne_zero φ _ _))
  have hxor := (φ.val_eq_zero_iff c.primPoly_legal).mp hzero
  exact (mem_errorPositions.mp (mem_errorSet.mp hi)).2 (BitVec.xor_eq_zero_iff.mp hxor)

/-- The syndromes of the received word are those of its errors. -/
theorem val_syndrome_eq_sum_errors (h : WithinCapacity c r w nsym) {j : Nat} (hj : j < nsym) :
    φ.val (syndrome c r j) = ∑ i ∈ errorSet r w, errorWeight φ r w i * errorLocator φ r.length i ^ j := by
  have hcodeword : ∑ i ∈ Finset.range r.length, φ.val (w.getD i 0) * errorLocator φ r.length i ^ (c.fcr + j) = 0 := by
    rw [← h.length_eq, ← val_syndrome, h.codeword j hj, φ.val_zero]
  have hterm : ∀ i, errorWeight φ r w i * errorLocator φ r.length i ^ j =
      φ.val (r.getD i 0) * errorLocator φ r.length i ^ (c.fcr + j) +
        φ.val (w.getD i 0) * errorLocator φ r.length i ^ (c.fcr + j) := by
    intro i
    rw [errorWeight, φ.val_xor, pow_add]
    ring
  have hsubset : errorSet r w ⊆ Finset.range r.length := fun i hi =>
    Finset.mem_range.mpr (mem_errorPositions.mp (mem_errorSet.mp hi)).1
  calc φ.val (syndrome c r j)
      = ∑ i ∈ Finset.range r.length, φ.val (r.getD i 0) * errorLocator φ r.length i ^ (c.fcr + j) +
          ∑ i ∈ Finset.range r.length, φ.val (w.getD i 0) * errorLocator φ r.length i ^ (c.fcr + j) := by
        rw [hcodeword, add_zero, val_syndrome]
    _ = ∑ i ∈ Finset.range r.length, errorWeight φ r w i * errorLocator φ r.length i ^ j := by
        rw [← Finset.sum_add_distrib]
        exact Finset.sum_congr rfl fun i _ => (hterm i).symm
    _ = ∑ i ∈ errorSet r w, errorWeight φ r w i * errorLocator φ r.length i ^ j := by
        refine (Finset.sum_subset hsubset fun i hi hnot => ?_).symm
        have hsame : r.getD i 0 = w.getD i 0 := by
          by_contra hne
          exact hnot (mem_errorSet.mpr (mem_errorPositions.mpr ⟨Finset.mem_range.mp hi, hne⟩))
        rw [errorWeight, hsame, BitVec.xor_self, show φ.val 0#8 = 0 from φ.val_zero, zero_mul, zero_mul]

/-! ### The stages -/

variable {syn : List Byte} (hsyn : ∀ j, j < nsym → syn.getD j 0 = syndrome c r j)
include hsyn

theorem coeff_toPoly_syndromes (h : WithinCapacity c r w nsym) {j : Nat} (hj : j < nsym) :
    (φ.toPoly syn).coeff j = ∑ i ∈ errorSet r w, errorWeight φ r w i * errorLocator φ r.length i ^ j := by
  rw [φ.coeff_toPoly, hsyn j hj, val_syndrome_eq_sum_errors φ h hj]

/-- `RS_KES` finds the error locator, with as many register stages as errors (R155). -/
theorem solveKey_eq_locatorPoly (h : WithinCapacity c r w nsym) :
    (solveKey c syn nsym).len = (errorPositions r w).length ∧
      φ.toPoly (solveKey c syn nsym).conn = locatorPoly (errorSet r w) (errorLocator φ r.length) := by
  obtain ⟨-, -, num, prevNum, heq⟩ := solveKey_invariant φ syn h.nsym_le
  rw [← card_errorSet]
  exact heq.eq_locatorPoly (by rw [card_errorSet]; exact h.capacity) (errorLocator_injOn φ h)
    (fun i _ => errorLocator_ne_zero φ r.length i) (fun i hi => errorWeight_ne_zero φ hi)
    (fun j hj => coeff_toPoly_syndromes φ hsyn h hj)

include φ in
/-- `RS_CHN` finds the errors' positions (R147). -/
theorem isRootPosition_solveKey_iff (h : WithinCapacity c r w nsym) {i : Nat} (hi : i < r.length) :
    isRootPosition c (solveKey c syn nsym).conn r.length i = true ↔ i ∈ errorPositions r w := by
  have hroot : isRootPosition c (solveKey c syn nsym).conn r.length i = true ↔
      polyEval c.primPoly (solveKey c syn nsym).conn (gfExp c.primPoly (-degreeOf r.length i)) = 0 := beq_iff_eq
  rw [hroot, ← φ.val_eq_zero_iff c.primPoly_legal, φ.val_polyEval, (solveKey_eq_locatorPoly φ hsyn h).2,
    val_gfExp_degreeOf_neg, eval_locatorPoly_inv_eq_zero_iff (errorLocator_ne_zero φ r.length i), ← mem_errorSet]
  constructor
  · rintro ⟨k, hk, hki⟩
    have hk' := (mem_errorPositions.mp (mem_errorSet.mp hk)).1
    rwa [← errorLocator_injective φ h.length_le hk' hi hki]
  · exact fun hmem => ⟨i, hmem, rfl⟩

/-- `OMEGA` is the error evaluator (R151). -/
theorem toPoly_evaluator (h : WithinCapacity c r w nsym) :
    φ.toPoly (evaluator c syn (solveKey c syn nsym).conn nsym) =
      evaluatorPoly (errorSet r w) (errorLocator φ r.length) (errorWeight φ r w) := by
  have hkey := X_pow_dvd_locatorPoly_mul fun j hj => coeff_toPoly_syndromes φ hsyn h hj
  have hmem := evaluatorPoly_mem (errorSet r w) (errorLocator φ r.length) (errorWeight φ r w)
  have hcapacity := h.capacity
  rw [card_errorSet] at hmem
  ext k
  obtain hlt | hge := Nat.lt_or_ge k nsym
  · have hcoeff := X_pow_dvd_iff.mp hkey k hlt
    have hsum : (evaluator c syn (solveKey c syn nsym).conn nsym).getD k 0 =
        xorSum (k + 1) fun i => gfMul c.primPoly (syn.getD i 0) ((solveKey c syn nsym).conn.getD (k - i) 0) := by
      simp [evaluator, List.getD, hlt, xorSum]
    rw [coeff_sub, sub_eq_zero] at hcoeff
    rw [← hcoeff, ← (solveKey_eq_locatorPoly φ hsyn h).2, mul_comm, coeff_mul, φ.coeff_toPoly, hsum, φ.val_xorSum,
      Finset.Nat.sum_antidiagonal_eq_sum_range_succ fun i j =>
        (φ.toPoly syn).coeff i * (φ.toPoly (solveKey c syn nsym).conn).coeff j]
    refine Finset.sum_congr rfl fun i _ => ?_
    rw [φ.val_gfMul, φ.coeff_toPoly, φ.coeff_toPoly]
  · rw [coeff_eq_zero_of_mem_degreeLT hmem (by omega), φ.coeff_toPoly_of_le (by simpa [evaluator] using hge)]

/-- Forney's value at an error's position is the difference of the two words there (R150, R151). -/
theorem val_errorValue (h : WithinCapacity c r w nsym) {i : Nat} (hi : i ∈ errorPositions r w) :
    φ.val (errorValue c (evaluator c syn (solveKey c syn nsym).conn nsym) (solveKey c syn nsym).conn
      (degreeOf r.length i)) = φ.val (r.getD i 0 ^^^ w.getD i 0) := by
  have hne := errorLocator_ne_zero φ r.length i
  have hforney := eval_evaluatorPoly_div_derivative (a := errorWeight φ r w) (mem_errorSet.mpr hi)
    (errorLocator_injOn φ h) hne
  have hscale : φ.val (gfExp c.primPoly (degreeOf r.length i * (1 - (c.fcr : Int)))) =
      errorLocator φ r.length i * (errorLocator φ r.length i ^ c.fcr)⁻¹ := by
    rw [φ.val_gfExp c.primPoly_legal, zpow_mul, ← errorLocator, zpow_sub₀ hne, zpow_one, zpow_natCast, div_eq_mul_inv]
  rw [errorValue, φ.val_gfMul, φ.val_gfMul, φ.val_gfInv c.primPoly_legal, φ.val_polyEval, φ.val_polyEval,
    φ.toPoly_derivative, toPoly_evaluator φ hsyn h, (solveKey_eq_locatorPoly φ hsyn h).2, val_gfExp_degreeOf_neg,
    hforney, φ.neg_eq_self, hscale, errorWeight]
  field_simp

end Errors

/-! ### The stages within capacity, for bytes -/

section Bytes

variable {c : Config} {r w syn : List Byte} {nsym : Nat}

theorem solveKey_len_within (h : WithinCapacity c r w nsym) (hsyn : ∀ j, j < nsym → syn.getD j 0 = syndrome c r j) :
    (solveKey c syn nsym).len = (errorPositions r w).length := by
  obtain ⟨K, _, ⟨φ⟩⟩ := exists_fieldReading c.primPoly_legal
  exact (solveKey_eq_locatorPoly φ hsyn h).1

theorem rootPositions_within (h : WithinCapacity c r w nsym) (hsyn : ∀ j, j < nsym → syn.getD j 0 = syndrome c r j) :
    rootPositions c (solveKey c syn nsym).conn r.length = errorPositions r w := by
  obtain ⟨K, _, ⟨φ⟩⟩ := exists_fieldReading c.primPoly_legal
  refine List.filter_congr fun i hi => Bool.eq_iff_iff.mpr ?_
  have hlt := List.mem_range.mp hi
  rw [isRootPosition_solveKey_iff φ hsyn h hlt, mem_errorPositions, bne_iff_ne]
  exact and_iff_right hlt

theorem errorValue_within (h : WithinCapacity c r w nsym) (hsyn : ∀ j, j < nsym → syn.getD j 0 = syndrome c r j)
    {i : Nat} (hi : i ∈ errorPositions r w) :
    errorValue c (evaluator c syn (solveKey c syn nsym).conn nsym) (solveKey c syn nsym).conn (degreeOf r.length i) =
      r.getD i 0 ^^^ w.getD i 0 := by
  obtain ⟨K, _, ⟨φ⟩⟩ := exists_fieldReading c.primPoly_legal
  exact φ.val_injective c.primPoly_legal (val_errorValue φ hsyn h hi)

end Bytes

end Sys2Proof.Machine
end

section
/-! PROOFS. `RS_DEC` as the chain of the five stage commands (`41_rs_commands.md` R154): one equation for each outcome
of a stage, and no stage reads `CODE`. -/

namespace Sys2Proof.Machine

open Sys2Proof.Claims

/-! ### The outcomes of the stages -/

/-- The state after an `RS_SYN` that passed (R143). -/
def afterSyn (s : State) : State :=
  { s with syn := syndromes s.cfg s.buffer s.nsym ++ List.replicate (s.cfg.nsymMax - s.nsym) 0
           status := { s.status with stage := .syn, szero := isCodeword s.cfg s.buffer s.nsym } }

/-- What `RS_KES` writes whether or not the length is within capacity (R145). -/
def withLocator (s : State) : State :=
  { s with lambda := (solveKey s.cfg s.syn s.nsym).conn, rsL := BitVec.ofNat 8 (solveKey s.cfg s.syn s.nsym).len }

/-- What `RS_CHN` writes whatever the number of root positions is (R148). -/
def withPositions (s : State) : State :=
  { s with errloc := padded s.cfg.tMax ((rootPositions s.cfg s.lambda s.n).map (BitVec.ofNat 8))
           rsErrcnt := BitVec.ofNat 8 (rootPositions s.cfg s.lambda s.n).length }

/-- The error value that `RS_FNY` finds for position `q`, 0 beyond the positions (R150). -/
def forneyValue (s : State) (q : Nat) : Byte :=
  if q < s.rsErrcnt.toNat then
    errorValue s.cfg (evaluator s.cfg s.syn s.lambda s.nsym) s.lambda (degreeOf s.n (s.errlocAt q))
  else 0

theorem forneyValue_of_lt {s : State} {q : Nat} (hq : q < s.rsErrcnt.toNat) :
    forneyValue s q =
      errorValue s.cfg (evaluator s.cfg s.syn s.lambda s.nsym) s.lambda (degreeOf s.n (s.errlocAt q)) := if_pos hq

/-- What `RS_FNY` writes (R150). -/
def withValues (s : State) : State := { s with errval := (List.range s.cfg.tMax).map (forneyValue s) }

section Outcomes

variable {s : State}

theorem performSyn_passes (h : s.cfgRsOk = true) : performSyn s = (afterSyn s, .ok) := if_pos h

theorem performKes_outOfOrder (h : s.status.stage ≠ .syn) : performKes s = (s, .errSeq) := if_neg h

theorem performKes_beyond (h : s.status.stage = .syn) (hlen : tOf s.nsym < (solveKey s.cfg s.syn s.nsym).len) :
    performKes s = (withLocator s, .errUncorr) := (if_pos h).trans (if_pos hlen)

theorem performKes_within (h : s.status.stage = .syn) (hlen : (solveKey s.cfg s.syn s.nsym).len ≤ tOf s.nsym) :
    performKes s = ((withLocator s).setStage .kes, .ok) := (if_pos h).trans (if_neg hlen.not_gt)

theorem performChn_outOfOrder (h : s.status.stage ≠ .kes) : performChn s = (s, .errSeq) := if_neg h

theorem performChn_mismatch (h : s.status.stage = .kes)
    (hlen : (rootPositions s.cfg s.lambda s.n).length ≠ s.rsL.toNat) :
    performChn s = (withPositions s, .errUncorr) := (if_pos h).trans (if_pos hlen)

theorem performChn_match (h : s.status.stage = .kes)
    (hlen : (rootPositions s.cfg s.lambda s.n).length = s.rsL.toNat) :
    performChn s = ((withPositions s).setStage .chn, .ok) := (if_pos h).trans (if_neg (not_not.mpr hlen))

theorem performFny_outOfOrder (h : s.status.stage ≠ .chn) : performFny s = (s, .errSeq) := if_neg h

theorem performFny_inOrder (h : s.status.stage = .chn) : performFny s = ((withValues s).setStage .fny, .ok) := if_pos h

theorem performApl_outOfOrder (h : s.status.stage ≠ .fny) : performApl s = (s, .errSeq) := if_neg h

theorem performApl_refuses (h : s.status.stage = .fny) (hbad : isCodeword s.cfg s.candidate s.nsym = false) :
    performApl s = (s, .errUncorr) := (if_pos h).trans (if_neg (by rw [hbad]; exact Bool.false_ne_true))

theorem performApl_commits (h : s.status.stage = .fny) (hgood : isCodeword s.cfg s.candidate s.nsym = true) :
    performApl s = ((s.setBuffer 0 s.candidate).setStage .apl, .ok) := (if_pos h).trans (if_pos hgood)

end Outcomes

/-! ### No stage reads `CODE` -/

/-- The stage neither reads `CODE` nor, before its `done`, writes it. -/
def CodeBlind (stage : State → State × Code) : Prop :=
  ∀ (s : State) (code : Code), stage (s.done code) = ((stage s).1.done code, (stage s).2)

theorem State.setBuffer_done (s : State) (code : Code) (i : Nat) (bs : List Byte) :
    (s.done code).setBuffer i bs = (s.setBuffer i bs).done code := by
  induction bs generalizing s i with
  | nil => rfl
  | cons b bs ih => exact ih (s.setCw i b) (i + 1)

theorem codeBlind_performKes : CodeBlind performKes := by
  intro s code
  obtain ⟨hstage, -⟩ | ⟨hstage, hlen, -⟩ | ⟨hstage, hlen, -⟩ := performKes_cases s
  · rw [performKes_outOfOrder hstage, performKes_outOfOrder (s := s.done code) hstage]
  · rw [performKes_beyond hstage hlen, performKes_beyond (s := s.done code) hstage hlen]
    rfl
  · rw [performKes_within hstage hlen, performKes_within (s := s.done code) hstage hlen]
    rfl

theorem codeBlind_performChn : CodeBlind performChn := by
  intro s code
  obtain ⟨hstage, -⟩ | ⟨hstage, hlen, -⟩ | ⟨hstage, hlen, -⟩ := performChn_cases s
  · rw [performChn_outOfOrder hstage, performChn_outOfOrder (s := s.done code) hstage]
  · rw [performChn_mismatch hstage hlen, performChn_mismatch (s := s.done code) hstage hlen]
    rfl
  · rw [performChn_match hstage hlen, performChn_match (s := s.done code) hstage hlen]
    rfl

theorem codeBlind_performFny : CodeBlind performFny := by
  intro s code
  obtain ⟨hstage, -⟩ | ⟨hstage, -⟩ := performFny_cases s
  · rw [performFny_outOfOrder hstage, performFny_outOfOrder (s := s.done code) hstage]
  · rw [performFny_inOrder hstage, performFny_inOrder (s := s.done code) hstage]
    rfl

theorem codeBlind_performApl : CodeBlind performApl := by
  intro s code
  obtain ⟨hstage, -⟩ | ⟨hstage, hbad, -⟩ | ⟨hstage, hgood, -⟩ := performApl_cases s
  · rw [performApl_outOfOrder hstage, performApl_outOfOrder (s := s.done code) hstage]
  · rw [performApl_refuses hstage hbad, performApl_refuses (s := s.done code) hstage hbad]
  · rw [performApl_commits hstage hgood, performApl_commits (s := s.done code) hstage hgood, State.setBuffer_done]
    rfl

theorem codeBlind_andThen {f g : State → State × Code} (hf : CodeBlind f) (hg : CodeBlind g) :
    CodeBlind fun s => andThen (f s) g := by
  intro s code
  change andThen (f (s.done code)) g = ((andThen (f s) g).1.done code, (andThen (f s) g).2)
  rw [hf s code]
  by_cases h : (f s).2 = .ok
  · rw [andThen_ok h, andThen_ok (r := ((f s).1.done code, (f s).2)) h, hg]
  · rw [andThen_stop h, andThen_stop (r := ((f s).1.done code, (f s).2)) h]

/-! ### The chain -/

theorem andThen_pair_ok (s : State) (f : State → State × Code) : andThen (s, .ok) f = f s := andThen_ok rfl f

theorem andThen_assoc (r : State × Code) (f g : State → State × Code) :
    andThen (andThen r f) g = andThen r fun s => andThen (f s) g := by
  by_cases h : r.2 = .ok
  · rw [andThen_ok h, andThen_ok h]
  · rw [andThen_stop h, andThen_stop h, andThen_stop h]

/-- A command that ends `OK` is followed by the rest, and any other ends the run. -/
theorem untilFailure_cons_of_next {i : Instr} {is : List Instr} {s t : State} (h : exec i s = .next t) :
    untilFailure (i :: is) s = if t.status.code = .ok ∧ is ≠ [] then untilFailure is t else .next t := by
  rw [untilFailure, h]

theorem untilFailure_singleton {i : Instr} {s t : State} (h : exec i s = .next t) : untilFailure [i] s = .next t := by
  rw [untilFailure_cons_of_next h, if_neg fun hok => hok.2 rfl]

/-- Issuing a stage command and then others is the stage followed by the others' chain. -/
theorem untilFailure_cons {i : Instr} {is : List Instr} {stage rest : State → State × Code} (his : is ≠ [])
    (hi : ∀ s, exec i s = .next (conclude (stage s))) (hblind : CodeBlind rest)
    (hrest : ∀ s, untilFailure is s = .next (conclude (rest s))) (s : State) :
    untilFailure (i :: is) s = .next (conclude (andThen (stage s) rest)) := by
  rw [untilFailure_cons_of_next (hi s), show (conclude (stage s)).status.code = (stage s).2 from rfl]
  by_cases h : (stage s).2 = .ok
  · have hconclude : conclude (stage s) = (stage s).1.done .ok := by rw [← h]; rfl
    rw [if_pos ⟨h, his⟩, hrest, andThen_ok h, hconclude, hblind]
    rfl
  · rw [if_neg fun hok => h hok.1, andThen_stop h]

/-- The state after the stage commands one by one is that of `RS_DEC` (R154). -/
theorem untilFailure_stages (s : State) :
    untilFailure [.rsSyn, .rsKes, .rsChn, .rsFny, .rsApl] s = .next (conclude (performDec s)) := by
  have happly : ∀ s, untilFailure [.rsApl] s = .next (conclude (performApl s)) := fun s =>
    untilFailure_singleton (exec_rsApl s)
  have hfny := untilFailure_cons (by simp) exec_rsFny codeBlind_performApl happly
  have hfnyBlind := codeBlind_andThen codeBlind_performFny codeBlind_performApl
  have hchn := untilFailure_cons (by simp) exec_rsChn hfnyBlind hfny
  have hchnBlind := codeBlind_andThen codeBlind_performChn hfnyBlind
  have hkes := untilFailure_cons (by simp) exec_rsKes hchnBlind hchn
  have hkesBlind := codeBlind_andThen codeBlind_performKes hchnBlind
  rw [untilFailure_cons (by simp) exec_rsSyn hkesBlind hkes s, performDec, andThen_assoc, andThen_assoc, andThen_assoc]

end Sys2Proof.Machine
end

section
/-! PROOFS. `RS_DEC` within capacity (`41_rs_commands.md` R155): each stage ends `OK` with what the next one needs, and
the candidate is the codeword. The obligation O43. -/

namespace Sys2Proof.Machine

open Sys2Proof.Claims

/-- A sum with one term for each place of a list without repetitions picks the term of a given entry. -/
theorem xorSum_at_mem {l : List Nat} (hnodup : l.Nodup) (f : Nat → Byte) {i : Nat} (hi : i ∈ l) :
    (xorSum l.length fun q => if l.getD q 0 = i then f (l.getD q 0) else 0) = f i := by
  obtain ⟨q, hq, rfl⟩ := List.getElem_of_mem hi
  have hself : l.getD q 0 = l[q] := List.getD_eq_getElem l 0 hq
  rw [xorSum_eq_single hq, hself, if_pos rfl]
  intro k hk hkq
  rw [List.getD_eq_getElem l 0 hk, if_neg fun heq => hkq ((hnodup.getElem_inj_iff).mp heq)]

theorem xorSum_at_notMem {l : List Nat} (f : Nat → Byte) {i : Nat} (hi : i ∉ l) :
    (xorSum l.length fun q => if l.getD q 0 = i then f (l.getD q 0) else 0) = 0 := by
  refine xorSum_eq_zero fun q hq => if_neg ?_
  rintro rfl
  rw [List.getD_eq_getElem l 0 hq] at hi
  exact hi (List.getElem_mem hq)

/-! ### The states after the stages -/

/-- After `RS_SYN` and `RS_KES`. -/
def solved (s : State) : State := (withLocator (afterSyn s)).setStage .kes

/-- After `RS_SYN`, `RS_KES` and `RS_CHN`. -/
def searched (s : State) : State := (withPositions (solved s)).setStage .chn

/-- After `RS_SYN`, `RS_KES`, `RS_CHN` and `RS_FNY`. -/
def valued (s : State) : State := (withValues (searched s)).setStage .fny

/-- After all five stages. -/
def decoded (s : State) : State := ((valued s).setBuffer 0 (valued s).candidate).setStage .apl

section Within

variable {s : State} {w : List Byte}

theorem afterSyn_syn {j : Nat} (hj : j < s.nsym) : (afterSyn s).syn.getD j 0 = syndrome s.cfg s.buffer j :=
  syndromes_append_getD s.cfg s.buffer hj _

variable (h : WithinCapacity s.cfg s.buffer w s.nsym)
include h

theorem errorPositions_length_le : (errorPositions s.buffer w).length ≤ tOf s.nsym := by
  have hcapacity := h.capacity
  change _ ≤ s.nsym / 2
  omega

theorem errorPositions_length_le_tMax : (errorPositions s.buffer w).length ≤ s.cfg.tMax :=
  (errorPositions_length_le h).trans (Nat.div_le_div_right h.nsym_le)

theorem errorPositions_length_lt : (errorPositions s.buffer w).length < 256 := by
  have hmax := s.cfg.nsymMax_le
  have hnsym := h.nsym_le
  have hcapacity := h.capacity
  omega

theorem solved_len : (solveKey (afterSyn s).cfg (afterSyn s).syn (afterSyn s).nsym).len =
    (errorPositions s.buffer w).length := solveKey_len_within h fun _ => afterSyn_syn

theorem solved_rsL : (solved s).rsL.toNat = (errorPositions s.buffer w).length := by
  change (BitVec.ofNat 8 (solveKey (afterSyn s).cfg (afterSyn s).syn (afterSyn s).nsym).len).toNat = _
  rw [solved_len h, BitVec.toNat_ofNat, Nat.mod_eq_of_lt (errorPositions_length_lt h)]

theorem rootPositions_solved :
    rootPositions (solved s).cfg (solved s).lambda (solved s).n = errorPositions s.buffer w := by
  rw [← rootPositions_within h fun _ => afterSyn_syn, buffer_length]
  rfl

theorem searched_rsErrcnt : (searched s).rsErrcnt.toNat = (errorPositions s.buffer w).length := by
  change (BitVec.ofNat 8 (rootPositions (solved s).cfg (solved s).lambda (solved s).n).length).toNat = _
  rw [rootPositions_solved h, BitVec.toNat_ofNat, Nat.mod_eq_of_lt (errorPositions_length_lt h)]

theorem searched_errlocAt {k : Nat} (hk : k < (errorPositions s.buffer w).length) :
    (searched s).errlocAt k = (errorPositions s.buffer w).getD k 0 := by
  change ((padded s.cfg.tMax
    ((rootPositions (solved s).cfg (solved s).lambda (solved s).n).map (BitVec.ofNat 8))).getD k 0).toNat = _
  rw [rootPositions_solved h]
  refine padded_toNat (fun i hi => ?_) (hk.trans_le (errorPositions_length_le_tMax h))
  exact (mem_errorPositions.mp hi).1.trans (h.length_le.trans_lt (by decide))

omit h in
theorem getD_mem_errorPositions {k : Nat} (hk : k < (errorPositions s.buffer w).length) :
    (errorPositions s.buffer w).getD k 0 ∈ errorPositions s.buffer w := by
  rw [List.getD_eq_getElem _ 0 hk]
  exact List.getElem_mem hk

theorem valued_errvalAt {k : Nat} (hk : k < (errorPositions s.buffer w).length) :
    (valued s).errvalAt k = s.buffer.getD ((errorPositions s.buffer w).getD k 0) 0 ^^^
      w.getD ((errorPositions s.buffer w).getD k 0) 0 := by
  have hlength : ((List.range s.cfg.tMax).map (forneyValue (searched s))).length = s.cfg.tMax := by simp
  have hsize := hk.trans_le (errorPositions_length_le_tMax h)
  change ((List.range s.cfg.tMax).map (forneyValue (searched s))).getD k 0 = _
  rw [List.getD_eq_getElem _ 0 (by omega), List.getElem_map, List.getElem_range,
    forneyValue_of_lt (by rwa [searched_rsErrcnt h]), searched_errlocAt h hk,
    ← errorValue_within h (fun _ => afterSyn_syn) (getD_mem_errorPositions hk), buffer_length]
  rfl

/-- The candidate is the codeword. -/
theorem valued_candidate : (valued s).candidate = w := by
  have hlength : (valued s).candidate.length = s.buffer.length := by simp; rfl
  refine ext_getD (hlength.trans h.length_eq.symm) fun i hi => ?_
  have hi' : i < s.n := by rwa [hlength, buffer_length] at hi
  have hcorrections : (xorSum (valued s).rsErrcnt.toNat fun q =>
        if (valued s).errlocAt q = i then (valued s).errvalAt q else 0) =
      xorSum (errorPositions s.buffer w).length fun q => if (errorPositions s.buffer w).getD q 0 = i then
        s.buffer.getD ((errorPositions s.buffer w).getD q 0) 0 ^^^ w.getD ((errorPositions s.buffer w).getD q 0) 0
        else 0 := by
    rw [show (valued s).rsErrcnt.toNat = _ from searched_rsErrcnt h]
    refine xorSum_congr fun q hq => ?_
    rw [show (valued s).errlocAt q = _ from searched_errlocAt h hq, valued_errvalAt h hq]
  rw [candidate_getD (valued s) hi', hcorrections, show (valued s).cw i = s.cw i from rfl, ← buffer_getD s hi']
  by_cases hmem : i ∈ errorPositions s.buffer w
  · rw [xorSum_at_mem (errorPositions_nodup s.buffer w) (fun i => s.buffer.getD i 0 ^^^ w.getD i 0) hmem,
      ← BitVec.xor_assoc, BitVec.xor_self, BitVec.zero_xor]
  · rw [xorSum_at_notMem (fun i => s.buffer.getD i 0 ^^^ w.getD i 0) hmem]
    have hsame : s.buffer.getD i 0 = w.getD i 0 := by
      by_contra hne
      exact hmem (mem_errorPositions.mpr ⟨by rwa [buffer_length], hne⟩)
    rw [hsame]
    exact BitVec.xor_zero

/-- Within capacity every stage ends `OK`. -/
theorem performDec_within (hconfig : rsConfig s) : performDec s = (decoded s, .ok) := by
  have hsyn : performSyn s = (afterSyn s, .ok) := performSyn_passes ((cfgRsOk_iff s).mpr hconfig)
  have hkes : performKes (afterSyn s) = (solved s, .ok) :=
    performKes_within rfl ((solved_len h).trans_le (errorPositions_length_le h))
  have hchn : performChn (solved s) = (searched s, .ok) :=
    performChn_match rfl (by rw [rootPositions_solved h, solved_rsL h])
  have hfny : performFny (searched s) = (valued s, .ok) := performFny_inOrder rfl
  have hapl : performApl (valued s) = (decoded s, .ok) := by
    refine performApl_commits rfl ((isCodeword_iff _ _ _).mpr ?_)
    rw [valued_candidate h]
    exact h.codeword
  rw [performDec, hsyn, andThen_pair_ok, hkes, andThen_pair_ok, hchn, andThen_pair_ok, hfny, andThen_pair_ok, hapl]

theorem decoded_cw {i : Nat} (hi : i < s.n) : (decoded s).cw i = w.getD i 0 := by
  change ((valued s).setBuffer 0 (valued s).candidate).cw i = _
  have hlength : i < w.length := by rwa [h.length_eq, buffer_length]
  rw [valued_candidate h, cw_setBuffer_zero _ w hlength]

end Within

/-- The claims' list of errors. -/
theorem errorPositions_buffer (s : State) (w : List Byte) :
    errorPositions s.buffer w = (List.range s.n).filter fun i => s.cw i != w.getD i 0 := by
  rw [errorPositions, buffer_length]
  exact List.filter_congr fun i hi => by rw [buffer_getD s (List.mem_range.mp hi)]

theorem withinCapacity_of_rsConfig {s : State} {w : List Byte} (hconfig : rsConfig s) (hlength : w.length = s.n)
    (hcodeword : ∀ j, j < s.nsym → syndrome s.cfg w j = 0)
    (hcapacity : (errorPositions s.buffer w).length ≤ s.nsym / 2) :
    WithinCapacity s.cfg s.buffer w s.nsym := by
  obtain ⟨-, -, hnsym⟩ := hconfig
  have hbyte : s.n < 256 := s.rsN.isLt
  exact
    { length_eq := by rw [hlength, buffer_length]
      length_le := by rw [buffer_length]; omega
      nsym_le := hnsym
      codeword := hcodeword
      capacity := by omega }

end Sys2Proof.Machine

namespace Sys2Proof.Proofs

open Sys2Proof.Machine Sys2Proof.Claims

/-- Settles O43: within capacity the five stages end `OK` in turn, and the state after them holds the codeword, the
errors' positions and their values. -/
theorem rsDecCorrectsUpToCapacity : Obligations.RsDecCorrectsUpToCapacity := by
  intro s w errors hconfig hlength hcodeword herrors hcapacity
  rw [← errorPositions_buffer] at herrors
  subst herrors
  have h := withinCapacity_of_rsConfig hconfig hlength hcodeword hcapacity
  obtain ⟨-, -, hrsL, herrloc, hrsErrcnt, herrval⟩ := keepsRsResults_setBuffer (valued s) 0 (valued s).candidate
  have hdec : conclude (performDec s) = (decoded s).done .ok := by
    rw [performDec_within h hconfig]
    rfl
  refine ⟨(decoded s).done .ok, by rw [exec_rsDec, hdec], by rw [untilFailure_stages, hdec], rfl, rfl,
    fun i hi => decoded_cw h hi, ?count, ?length, fun k hk => ?error⟩
  case count => exact (congrArg BitVec.toNat hrsErrcnt).trans (searched_rsErrcnt h)
  case length => exact (congrArg BitVec.toNat hrsL).trans (solved_rsL h)
  case error =>
    obtain ⟨hindex, hne⟩ := mem_errorPositions.mp (getD_mem_errorPositions hk)
    have hloc : ((decoded s).done .ok).errlocAt k = (errorPositions s.buffer w).getD k 0 :=
      (congrArg (fun l : List Byte => (l.getD k 0).toNat) herrloc).trans (searched_errlocAt h hk)
    have hval : ((decoded s).done .ok).errvalAt k = s.buffer.getD ((errorPositions s.buffer w).getD k 0) 0 ^^^
        w.getD ((errorPositions s.buffer w).getD k 0) 0 :=
      (congrArg (fun l : List Byte => l.getD k 0) herrval).trans (valued_errvalAt h hk)
    rw [buffer_length] at hindex
    refine ⟨hloc, by rw [hval, buffer_getD s hindex], fun hzero => hne ?_⟩
    rw [hval] at hzero
    exact BitVec.xor_eq_zero_iff.mp hzero

end Sys2Proof.Proofs
end

section
/-! PROOFS. The cursor on the path (`42_ff_commands.md` R181, R184, R186): the data-bearing cells ahead of the cursor as
a list, `seek` and the loop of bits as what they take from the front of that list, and bits packed into a byte. -/

namespace Sys2Proof.Machine

open Sys2Proof.Claims

/-! ### The data-bearing cells of the path (R181, R184) -/

/-- The path of the largest side has fewer than `2 ^ 16` candidates, so `FF_IDX` and `FF_CNT` never wrap. -/
theorem idxEnd_side_lt (s : State) : idxEnd s.side < 2 ^ 16 := by
  have hside : s.side ≤ 255 := Nat.le_of_lt_succ s.ffSize.isLt
  calc idxEnd s.side ≤ 2 * 255 * ((255 + 1) / 2) :=
        Nat.mul_le_mul (Nat.mul_le_mul_left 2 hside) (Nat.div_le_div_right (Nat.add_le_add_right hside 1))
    _ < 2 ^ 16 := by decide

theorem dataFrom_idxEnd (s : State) : dataFrom s (idxEnd s.side) = [] := by
  refine List.filter_eq_nil_iff.mpr fun k hk => ?_
  have := List.mem_range.mp hk
  simp [this]

theorem dataFrom_length_le (s : State) (idx : Nat) : (dataFrom s idx).length ≤ idxEnd s.side :=
  (List.length_filter_le ..).trans_eq List.length_range

theorem lt_idxEnd_of_mem_dataFrom {s : State} {idx k : Nat} (h : k ∈ dataFrom s idx) : k < idxEnd s.side :=
  List.mem_range.mp (List.mem_filter.mp h).1

/-- Candidates that are not data-bearing may be skipped. -/
theorem dataFrom_skip {s : State} {i j : Nat} (hij : i ≤ j) (h : ∀ k, i ≤ k → k < j → s.dataBearing k = false) :
    dataFrom s i = dataFrom s j := by
  refine List.filter_congr fun k _ => ?_
  obtain hlt | hge := Nat.lt_or_ge k j
  · by_cases hk : i ≤ k
    · simp [h k hk hlt]
    · simp [hk, show ¬ j ≤ k by omega]
  · simp [hge, hij.trans hge]

theorem dataFrom_cons {s : State} {j : Nat} (hj : j < idxEnd s.side) (h : s.dataBearing j = true) :
    dataFrom s j = j :: dataFrom s (j + 1) := by
  obtain ⟨m, hm⟩ := Nat.exists_eq_add_of_lt hj
  have hsplit : List.range (idxEnd s.side) = List.range' 0 j ++ j :: List.range' (j + 1) m := by
    rw [hm, List.range_eq_range', Nat.add_assoc, ← List.range'_append_1, Nat.zero_add, List.range'_succ]
  have hbefore : ∀ i, j ≤ i → (List.range' 0 j).filter (fun k => decide (i ≤ k) && s.dataBearing k) = [] := by
    intro i hi
    refine List.filter_eq_nil_iff.mpr fun k hk => ?_
    have : k < j := by simpa using hk
    simp [show ¬ i ≤ k by omega]
  have hafter : ∀ i, i ≤ j + 1 → (List.range' (j + 1) m).filter (fun k => decide (i ≤ k) && s.dataBearing k) =
      (List.range' (j + 1) m).filter s.dataBearing := by
    intro i hi
    refine List.filter_congr fun k hk => ?_
    have : j + 1 ≤ k := (List.mem_range'_1.mp hk).1
    simp [show i ≤ k by omega]
  simp only [dataFrom, hsplit, List.filter_append, List.filter_cons, hbefore j le_rfl, hbefore (j + 1) (by omega),
    hafter j (by omega), hafter (j + 1) le_rfl]
  simp [h]

/-! ### The cursor (R184) -/

/-- The path indices of the data-bearing cells that the cursor has before it. -/
def State.ahead (s : State) : List Nat := dataFrom s s.ffIdx.toNat

theorem getD_ahead_lt {s : State} {k : Nat} (hk : k < s.ahead.length) : s.ahead.getD k 0 < idxEnd s.side := by
  rw [List.getD_eq_getElem _ 0 hk]
  exact lt_idxEnd_of_mem_dataFrom (List.getElem_mem hk)

/-- `FF_IDX` is in `0..IDX_END(FF_SIZE)`. -/
def State.onPath (s : State) : Prop := s.ffIdx.toNat ≤ idxEnd s.side

/-- `FF_IDX <- idx`. -/
def State.moveTo (s : State) (idx : Nat) : State := { s with ffIdx := BitVec.ofNat 16 idx }

/-- `seek` to a path index, then `take`. -/
def State.takeAt (s : State) (idx : Nat) : State :=
  { s with ffIdx := BitVec.ofNat 16 (idx + 1), ffCnt := s.ffCnt + 1, ffLast := lastAt s idx }

/-- The cells at the given path indices are taken, one after the other. -/
def State.takeAll (s : State) (cells : List Nat) : State := cells.foldl State.takeAt s

theorem toNat_ffIdx_moveTo (s : State) {idx : Nat} (h : idx < 2 ^ 16) : (s.moveTo idx).ffIdx.toNat = idx := by
  simp only [State.moveTo, BitVec.toNat_ofNat, Nat.mod_eq_of_lt h]

theorem takeBit_moveTo {s : State} {j : Nat} (hj : j < idxEnd s.side) :
    (s.moveTo j).takeBit = (darkAt s j, s.takeAt j) := by
  have hidx : (s.moveTo j).ffIdx.toNat = j := toNat_ffIdx_moveTo s (hj.trans (idxEnd_side_lt s))
  unfold State.takeBit
  rw [hidx, State.takeAt, BitVec.ofNat_add]
  rfl

/-- `seek` ends at the first data-bearing cell ahead, or at the end of the path when there is none. -/
theorem seek_cases {s : State} (hpath : s.onPath) :
    (s.ahead = [] ∧ s.seek = (s.moveTo (idxEnd s.side), false)) ∨
    ∃ j, j < idxEnd s.side ∧ s.ahead = j :: dataFrom s (j + 1) ∧ s.seek = (s.moveTo j, true) := by
  obtain ⟨hge, hle, hskip, hfound⟩ := seekFrom_spec s (idxEnd s.side - s.ffIdx.toNat) s.ffIdx.toNat
  have hahead : s.ahead = dataFrom s _ := dataFrom_skip hge hskip
  have hseek : s.seek = (s.moveTo _, decide (_ < idxEnd s.side)) := rfl
  rw [Nat.add_sub_cancel' hpath] at hle hfound
  generalize s.seekFrom (idxEnd s.side - s.ffIdx.toNat) s.ffIdx.toNat = j at hle hfound hseek hahead
  obtain rfl | hlt := Nat.eq_or_lt_of_le hle
  · exact .inl ⟨hahead.trans (dataFrom_idxEnd s), by simpa using hseek⟩
  · exact .inr ⟨j, hlt, hahead.trans (dataFrom_cons hlt (hfound hlt)), by simpa [hlt] using hseek⟩

/-! ### Cells taken one after the other -/

/-- Taking cells changes `FF_IDX`, `FF_CNT` and `FF_LAST` and nothing else. -/
theorem takeAll_frame (s : State) (cells : List Nat) :
    s.takeAll cells = { s with ffIdx := (s.takeAll cells).ffIdx
                               ffCnt := (s.takeAll cells).ffCnt
                               ffLast := (s.takeAll cells).ffLast } := by
  induction cells generalizing s with
  | nil => rfl
  | cons j cells ih => exact ih (s.takeAt j)

theorem takeAll_append (s : State) (cells more : List Nat) :
    s.takeAll (cells ++ more) = (s.takeAll cells).takeAll more := List.foldl_append

theorem takeAll_ffCnt (s : State) (cells : List Nat) :
    (s.takeAll cells).ffCnt = s.ffCnt + BitVec.ofNat 16 cells.length := by
  induction cells generalizing s with
  | nil => exact (BitVec.add_zero _).symm
  | cons j cells ih =>
    calc (s.takeAll (j :: cells)).ffCnt = s.ffCnt + 1 + BitVec.ofNat 16 cells.length := ih (s.takeAt j)
      _ = s.ffCnt + BitVec.ofNat 16 (cells.length + 1) := by
        rw [Nat.add_comm cells.length 1, BitVec.ofNat_add, BitVec.add_assoc]
        rfl

/-- The last of the first `k` cells is taken last. -/
theorem takeAll_take {s : State} {cells : List Nat} {k : Nat} (hpos : 0 < k) (hk : k ≤ cells.length) :
    s.takeAll (cells.take k) = (s.takeAll (cells.take (k - 1))).takeAt (cells.getD (k - 1) 0) := by
  have hlt : k - 1 < cells.length := by omega
  conv_lhs => rw [← Nat.sub_add_cancel hpos, List.take_add_one, takeAll_append, List.getElem?_eq_getElem hlt]
  rw [List.getD_eq_getElem cells 0 hlt]
  rfl

theorem lastAt_takeAll (s : State) (cells : List Nat) (idx : Nat) : lastAt (s.takeAll cells) idx = lastAt s idx := by
  rw [takeAll_frame]
  rfl

theorem takeAll_take_ffIdx {s : State} {cells : List Nat} {k : Nat} (hpos : 0 < k) (hk : k ≤ cells.length) :
    (s.takeAll (cells.take k)).ffIdx = BitVec.ofNat 16 (cells.getD (k - 1) 0 + 1) := by
  rw [takeAll_take hpos hk]
  rfl

theorem takeAll_take_ffLast {s : State} {cells : List Nat} {k : Nat} (hpos : 0 < k) (hk : k ≤ cells.length) :
    (s.takeAll (cells.take k)).ffLast = lastAt s (cells.getD (k - 1) 0) := by
  rw [takeAll_take hpos hk]
  exact lastAt_takeAll s _ _

/-- `FF_LAST` after cells were taken: that of the last one, and the old one when there were none. -/
theorem takeAll_ffLast (s : State) (cells : List Nat) :
    (s.takeAll cells).ffLast = if cells = [] then s.ffLast else lastAt s (cells.getD (cells.length - 1) 0) := by
  split_ifs with h
  · rw [h]
    rfl
  · have hlast := takeAll_take_ffLast (s := s) (List.length_pos_iff.mpr h) le_rfl
    rwa [List.take_length] at hlast

/-- What a cell that is taken leaves ahead. -/
theorem takeAt_ahead {s : State} {j : Nat} (hj : j < idxEnd s.side) :
    (s.takeAt j).ahead = dataFrom s (j + 1) ∧ (s.takeAt j).onPath := by
  have hidx : (s.takeAt j).ffIdx.toNat = j + 1 :=
    toNat_ffIdx_moveTo s (Nat.lt_of_le_of_lt hj (idxEnd_side_lt s))
  exact ⟨congrArg (dataFrom s) hidx, hidx.trans_le hj⟩

/-- After the first `k` data-bearing cells ahead were taken, the others are ahead. -/
theorem takeAll_ahead {s : State} (hpath : s.onPath) (k : Nat) :
    (s.takeAll (s.ahead.take k)).ahead = s.ahead.drop k ∧ (s.takeAll (s.ahead.take k)).onPath := by
  induction k generalizing s with
  | zero => exact ⟨rfl, hpath⟩
  | succ k ih =>
    obtain ⟨hnone, -⟩ | ⟨j, hj, hahead, -⟩ := seek_cases hpath
    · rw [hnone]
      exact ⟨hnone, hpath⟩
    · obtain ⟨hnext, hpath'⟩ := takeAt_ahead hj
      rw [hahead, ← hnext]
      exact ih hpath'

/-- `takeBits` takes the next `k` data-bearing cells, or all there are and stops at the end of the path. -/
theorem takeBits_cases {s : State} (hpath : s.onPath) (temp : Byte) (k : Nat) :
    (k ≤ s.ahead.length ∧ s.takeBits temp k =
      (s.takeAll (s.ahead.take k), some (((s.ahead.take k).map (darkAt s)).foldl shiftIn temp))) ∨
    (s.ahead.length < k ∧ s.takeBits temp k = ((s.takeAll s.ahead).moveTo (idxEnd s.side), none)) := by
  induction k generalizing s temp with
  | zero => exact .inl ⟨Nat.zero_le _, rfl⟩
  | succ k ih =>
    obtain ⟨hnone, hseek⟩ | ⟨j, hj, hahead, hseek⟩ := seek_cases hpath
    · refine .inr ⟨by simp [hnone], ?_⟩
      rw [takeBits_exhausted (by rw [hseek]), hseek, hnone]
      rfl
    · obtain ⟨hnext, hpath'⟩ := takeAt_ahead hj
      rw [takeBits_found (by rw [hseek]), hseek, takeBit_moveTo hj, hahead, ← hnext]
      exact (ih hpath' (shiftIn temp (darkAt s j))).imp
        (fun ⟨hk, h⟩ => ⟨Nat.succ_le_succ hk, h⟩) (fun ⟨hk, h⟩ => ⟨Nat.succ_lt_succ hk, h⟩)

/-- A bit of a list of cells. -/
theorem map_darkAt_getD (s : State) {cells : List Nat} {b : Nat} (hb : b < cells.length) :
    (cells.map (darkAt s)).getD b false = darkAt s (cells.getD b 0) := by
  rw [List.getD_eq_getElem _ _ (by rwa [List.length_map]), List.getElem_map, List.getD_eq_getElem cells 0 hb]

/-! ### Bits packed into a byte (R186) -/

/-- The byte of at most eight bits, the last bit lowest. -/
def packBits (bits : List Bool) : Byte := bits.foldl shiftIn 0

theorem shiftIn_getLsbD_zero (temp : Byte) (bit : Bool) : (shiftIn temp bit).getLsbD 0 = bit := by
  simp [shiftIn]

theorem shiftIn_getLsbD_succ (temp : Byte) (bit : Bool) (k : Nat) :
    (shiftIn temp bit).getLsbD (k + 1) = (decide (k + 1 < 8) && temp.getLsbD k) := by
  simp [shiftIn]

theorem packBits_getLsbD {bits : List Bool} (hlength : bits.length ≤ 8) (k : Nat) :
    (packBits bits).getLsbD k = bits.reverse.getD k false := by
  induction bits using List.reverseRecOn generalizing k with
  | nil => simp [packBits]
  | append_singleton bits bit ih =>
    have hpack : packBits (bits ++ [bit]) = shiftIn (packBits bits) bit := List.foldl_concat ..
    rw [List.length_append, List.length_singleton] at hlength
    rw [hpack, List.reverse_concat]
    cases k with
    | zero => exact shiftIn_getLsbD_zero _ bit
    | succ k =>
      rw [shiftIn_getLsbD_succ, ih (by omega), List.getD_cons_succ]
      by_cases hk : k + 1 < 8
      · simp [hk]
      · rw [List.getD_eq_default _ _ (by rw [List.length_reverse]; omega), Bool.and_false]

/-- The first bit is highest. -/
theorem packBits_getLsbD_sub {bits : List Bool} (hlength : bits.length ≤ 8) {b : Nat} (hb : b < bits.length) :
    (packBits bits).getLsbD (bits.length - 1 - b) = bits.getD b false := by
  rw [packBits_getLsbD hlength, List.getD_eq_getElem _ _ (by rw [List.length_reverse]; omega), List.getElem_reverse,
    List.getD_eq_getElem _ _ hb]
  congr 1
  omega

theorem packBits_getLsbD_of_length_le {bits : List Bool} (hlength : bits.length ≤ 8) {k : Nat}
    (hk : bits.length ≤ k) : (packBits bits).getLsbD k = false := by
  rw [packBits_getLsbD hlength, List.getD_eq_default _ _ (by rwa [List.length_reverse])]

end Sys2Proof.Machine
end

section
/-! PROOFS. `FF_START` and `FF_GET` (`42_ff_commands.md` R185, R188): the words, what each command changes, and the
obligations O45 and O46. -/

namespace Sys2Proof.Machine

open Sys2Proof.Claims

/-! ### The commands -/

theorem exec_ffStart (s : State) :
    exec .ffStart s = .next (if s.ffCfgOk then s.startCursor.done .ok else s.done .errCfg) := rfl

theorem exec_ffGet (n : BitVec 8) (s : State) :
    exec (.ffGet n) s = .next (if !legalCount n then s.done .errCmd
      else if s.status.ffState = .idle then s.done .errSeq else finishGet (s.takeBits 0 n.toNat)) := rfl

theorem lastCellWord_zero : lastCellWord LastCell.zero = 0 := by decide

/-- The configuration check of R185. -/
theorem ffCfgOk_iff (s : State) : s.ffCfgOk = true ↔ ffConfig s := by
  simp [State.ffCfgOk, ffConfig]

/-- The counts of R188. -/
theorem legalCount_iff (n : BitVec 8) : legalCount n = true ↔ 1 ≤ n.toNat ∧ n.toNat ≤ 8 := by
  simp [legalCount]

/-- The word of `FF_GET n`, as R188 writes it. -/
theorem ffGet_word (n : BitVec 8) : 0x00000021 + 0x100 * n.setWidth 32 = encode (.ffGet n) := by
  have hword : (0x00000021 + 0x100 * n.setWidth 32 : Word).toNat = n.toNat * 2 ^ 8 + 0x21 := by bv_omega
  have hencode : (encode (.ffGet n)).toNat = n.toNat <<< 8 ||| 0x21 := by
    have hn : n.toNat % 2 ^ 32 = n.toNat := Nat.mod_eq_of_lt (by omega)
    have hfit : n.toNat <<< 8 % 2 ^ 32 = n.toNat <<< 8 := Nat.mod_eq_of_lt (by rw [Nat.shiftLeft_eq]; omega)
    simp only [encode, argOf, opcOf, BitVec.toNat_or, BitVec.toNat_shiftLeft, BitVec.toNat_setWidth, hn, hfit]
    rfl
  refine BitVec.eq_of_toNat_eq ?_
  rw [hword, hencode, ← Nat.shiftLeft_add_eq_or_of_lt (by decide), Nat.shiftLeft_eq]

theorem decode_ffGet {n : BitVec 8} (h : legalCount n = true) :
    decode (0x00000021 + 0x100 * n.setWidth 32) = .ok (.ffGet n) := by
  rw [ffGet_word]
  exact decode_encode h

/-- A count outside 1..8 is an illegal word (R188, `30_encoding.md` R94). -/
theorem decode_ffGet_badCount {n : BitVec 8} (h : legalCount n = false) :
    decode (0x00000021 + 0x100 * n.setWidth 32) = .error .badCount := by
  obtain ⟨hopc, harg, hrsv⟩ := Laws.encodeFields_all (.ffGet n)
  rw [ffGet_word, decode, hrsv, hopc, harg, if_neg (by decide)]
  exact (if_pos rfl).trans (if_neg (by simp [argOf, h]))

theorem exec_ffGet_active {n : BitVec 8} {s : State} (hcount : legalCount n = true)
    (hactive : s.status.ffState ≠ .idle) : exec (.ffGet n) s = .next (finishGet (s.takeBits 0 n.toNat)) := by
  rw [exec_ffGet, hcount, if_neg hactive]
  rfl

theorem finishGet_some (s : State) (temp : Byte) : finishGet (s, some temp) = { s with ffData := temp }.done .ok := rfl

theorem finishGet_none (s : State) : finishGet (s, none) = (s.setFfState .ended).done .errUnderrun := rfl

theorem finishGet_frame (r : State × Option Byte) :
    finishGet r = { r.1 with ffData := (finishGet r).ffData, status := (finishGet r).status } := by
  obtain ⟨s, _ | temp⟩ := r <;> rfl

/-- `FF_GET` changes `FF_DATA`, `FF_IDX`, `FF_CNT`, `FF_LAST`, `FF_STATE` and `CODE` and nothing else. -/
theorem finishGet_takeBits_keeps (s : State) (temp : Byte) (k : Nat) :
    keepsOperands s (finishGet (s.takeBits temp k)) ∧ keepsRsResults s (finishGet (s.takeBits temp k)) ∧
      keepsMemory s (finishGet (s.takeBits temp k)) ∧ keepsPort s (finishGet (s.takeBits temp k)) := by
  rw [finishGet_frame, takeBits_frame]
  exact ⟨⟨rfl, rfl, rfl⟩, ⟨rfl, rfl, rfl, rfl, rfl, rfl⟩, keepsMemory_of_eq rfl rfl, rfl, rfl, rfl, rfl⟩

theorem takeAll_status (s : State) (cells : List Nat) : (s.takeAll cells).status = s.status := by
  rw [takeAll_frame]

theorem takeAll_ffData (s : State) (cells : List Nat) : (s.takeAll cells).ffData = s.ffData := by
  rw [takeAll_frame]

end Sys2Proof.Machine

namespace Sys2Proof.Proofs

open Sys2Proof.Machine Sys2Proof.Claims

/-- Settles O45: the two branches of the command, as the configuration check decides. -/
theorem ffStartRestartsTheCursor : Obligations.FfStartRestartsTheCursor := by
  refine ⟨rfl, fun s => ⟨fun hconfig => ?fails, fun hconfig => ?starts⟩⟩
  case fails =>
    rw [exec_ffStart, if_neg (mt (ffCfgOk_iff s).mp hconfig)]
    rfl
  case starts =>
    rw [exec_ffStart, if_pos ((ffCfgOk_iff s).mpr hconfig)]
    exact ⟨_, rfl, rfl, rfl, rfl, lastCellWord_zero, rfl, ⟨rfl, rfl, rfl⟩, ⟨rfl, rfl, rfl, rfl, rfl, rfl⟩,
      keepsMemory_of_eq rfl rfl, rfl, rfl, rfl, rfl⟩

/-- Settles O46: `takeBits` takes the first `n` cells ahead and packs their bits, or takes all of them and stops at
the end of the path. -/
theorem ffGetYieldsTheNextBits : Obligations.FfGetYieldsTheNextBits := by
  refine ⟨fun n hn => decode_ffGet_badCount ?illegal, fun s n hpos hle => ?_⟩
  case illegal =>
    rw [← Bool.not_eq_true, legalCount_iff]
    omega
  have hcount : legalCount n = true := (legalCount_iff n).mpr ⟨hpos, hle⟩
  refine ⟨decode_ffGet hcount, fun hidle => ?idle, fun hactive hpath rem hrem => ?active⟩
  case idle =>
    rw [exec_ffGet, hcount, if_pos hidle]
    rfl
  obtain rfl : rem = s.ahead := hrem
  refine ⟨_, exec_ffGet_active hcount hactive, ?found, ?underrun, finishGet_takeBits_keeps s 0 n.toNat⟩
  case found =>
    intro henough
    obtain ⟨-, htake⟩ | ⟨hshort, -⟩ := takeBits_cases hpath 0 n.toNat
    · have hbits : ((s.ahead.take n.toNat).map (darkAt s)).length = n.toNat := by simp [henough]
      have hlast : s.ahead.getD (n.toNat - 1) 0 < idxEnd s.side := getD_ahead_lt (by omega)
      rw [htake, finishGet_some]
      refine ⟨?status, fun b hb => ?bits, fun b hb => ?above, ?idx, ?cnt, takeAll_take_ffLast hpos henough⟩
      case status => rw [State.done_status, takeAll_status]
      case bits =>
        have hbit := packBits_getLsbD_sub (hbits.trans_le hle) (hb.trans_eq hbits.symm)
        rw [hbits] at hbit
        refine hbit.trans ?_
        rw [List.map_take, List.getD_eq_getElem?_getD, List.getElem?_take_of_lt hb, ← List.getD_eq_getElem?_getD,
          map_darkAt_getD s (hb.trans_le henough)]
      case above => exact packBits_getLsbD_of_length_le (hbits.trans_le hle) (hbits.trans_le hb)
      case idx =>
        rw [State.done_ffIdx, takeAll_take_ffIdx hpos henough]
        exact toNat_ffIdx_moveTo s (Nat.lt_of_le_of_lt hlast (idxEnd_side_lt s))
      case cnt =>
        rw [State.done_ffCnt, takeAll_ffCnt, List.length_take_of_le henough, BitVec.ofNat_toNat]
    · omega
  case underrun =>
    intro hshort
    obtain ⟨henough, -⟩ | ⟨-, htake⟩ := takeBits_cases hpath 0 n.toNat
    · omega
    · rw [htake, finishGet_none]
      refine ⟨?status, takeAll_ffData s s.ahead, ?idx, takeAll_ffCnt s s.ahead, takeAll_ffLast s s.ahead⟩
      case status => rw [State.done_status, State.setFfState_status, State.moveTo, takeAll_status]
      case idx => exact toNat_ffIdx_moveTo (s.takeAll s.ahead) (idxEnd_side_lt s)

end Sys2Proof.Proofs
end

section
/-! PROOFS. `FF_FILL` (`42_ff_commands.md` R190): the codeword loop as the cells it takes and the bytes it writes, and
the obligation O48. -/

namespace Sys2Proof.Machine

open Sys2Proof.Claims

/-! ### `CW` writes and the cursor -/

theorem setBuffer_concat (s : State) (i : Nat) (bs : List Byte) (b : Byte) :
    s.setBuffer i (bs ++ [b]) = (s.setBuffer i bs).setCw (i + bs.length) b := by
  induction bs generalizing s i with
  | nil => rfl
  | cons c bs ih =>
    rw [List.length_cons, Nat.add_comm bs.length 1, ← Nat.add_assoc]
    exact ih (s.setCw i c) (i + 1)

/-- No `CW` write changes a cell. -/
theorem cell_setBuffer (s : State) {i : Nat} {bs : List Byte} (h : i + bs.length ≤ 256) (y x : Nat) :
    (s.setBuffer i bs).cell y x = s.cell y x := by
  refine congrArg (BitVec.setWidth 2) (State.peek_setBuffer_other s i bs fun k hk => ?_)
  exact (cwOffset_ne_cellOffset (by omega) y x).symm

theorem setBuffer_side (s : State) (i : Nat) (bs : List Byte) : (s.setBuffer i bs).side = s.side := by
  rw [State.setBuffer_eq]
  rfl

theorem setBuffer_ffIdx (s : State) (i : Nat) (bs : List Byte) : (s.setBuffer i bs).ffIdx = s.ffIdx := by
  rw [State.setBuffer_eq]

theorem setBuffer_ffCnt (s : State) (i : Nat) (bs : List Byte) : (s.setBuffer i bs).ffCnt = s.ffCnt := by
  rw [State.setBuffer_eq]

theorem setBuffer_ffLast (s : State) (i : Nat) (bs : List Byte) : (s.setBuffer i bs).ffLast = s.ffLast := by
  rw [State.setBuffer_eq]

theorem lastAt_setBuffer (s : State) (i : Nat) (bs : List Byte) (idx : Nat) :
    lastAt (s.setBuffer i bs) idx = lastAt s idx := by
  simp only [lastAt, setBuffer_side]

theorem darkAt_setBuffer (s : State) {i : Nat} {bs : List Byte} (h : i + bs.length ≤ 256) (idx : Nat) :
    darkAt (s.setBuffer i bs) idx = darkAt s idx := by
  simp only [darkAt, State.dark, cell_setBuffer s h, setBuffer_side]

theorem ahead_setBuffer (s : State) {i : Nat} {bs : List Byte} (h : i + bs.length ≤ 256) :
    (s.setBuffer i bs).ahead = s.ahead := by
  simp only [State.ahead, dataFrom, State.dataBearing, State.func, cell_setBuffer s h, setBuffer_side,
    setBuffer_ffIdx]

theorem onPath_setBuffer {s : State} (hpath : s.onPath) (i : Nat) (bs : List Byte) : (s.setBuffer i bs).onPath := by
  rwa [State.onPath, setBuffer_ffIdx, setBuffer_side]

theorem takeAll_setCw (s : State) (i : Nat) (b : Byte) (cells : List Nat) :
    (s.setCw i b).takeAll cells = (s.takeAll cells).setCw i b := by
  induction cells generalizing s with
  | nil => rfl
  | cons j cells ih => exact ih (s.takeAt j)

/-! ### The codewords (R186) -/

/-- The first `m` whole bytes of a list of bits. -/
def codewords (bits : List Bool) (m : Nat) : List Byte :=
  (List.range m).map fun i => packBits ((bits.drop (8 * i)).take 8)

theorem codewords_length (bits : List Bool) (m : Nat) : (codewords bits m).length = m := by
  simp [codewords]

theorem codewords_succ (bits : List Bool) (m : Nat) :
    codewords bits (m + 1) = codewords bits m ++ [packBits ((bits.drop (8 * m)).take 8)] := by
  simp [codewords, List.range_succ]

/-- Bit `8 * i + b` is bit `7 - b` of codeword `i`. -/
theorem codewords_getLsbD {bits : List Bool} {m i b : Nat} (hi : i < m) (hbits : 8 * (i + 1) ≤ bits.length)
    (hb : b < 8) : ((codewords bits m).getD i 0).getLsbD (7 - b) = bits.getD (8 * i + b) false := by
  have hlength : ((bits.drop (8 * i)).take 8).length = 8 := by
    rw [List.length_take, List.length_drop]
    omega
  have hbit := packBits_getLsbD_sub hlength.le (hb.trans_eq hlength.symm)
  rw [hlength] at hbit
  have hget : (codewords bits m).getD i 0 = packBits ((bits.drop (8 * i)).take 8) := by
    rw [List.getD_eq_getElem _ 0 (by rwa [codewords_length])]
    simp [codewords]
  rw [hget]
  refine hbit.trans ?_
  rw [List.getD_eq_getElem _ _ (by rwa [hlength]), List.getElem_take, List.getElem_drop,
    List.getD_eq_getElem _ _ (by omega)]

/-! ### The codeword loop -/

/-- The state with the first `m` codewords assembled: their cells taken, their bytes written. -/
def State.filled (s : State) (m : Nat) : State :=
  (s.setBuffer 0 (codewords (s.ahead.map (darkAt s)) m)).takeAll (s.ahead.take (8 * m))

theorem fits_codewords {m : Nat} (hm : m ≤ 256) (bits : List Bool) : 0 + (codewords bits m).length ≤ 256 := by
  rwa [Nat.zero_add, codewords_length]

theorem filled_ahead {s : State} (hpath : s.onPath) {m : Nat} (hm : m ≤ 256) :
    (s.filled m).ahead = s.ahead.drop (8 * m) ∧ (s.filled m).onPath := by
  have hfits := fits_codewords hm (s.ahead.map (darkAt s))
  have h := takeAll_ahead (onPath_setBuffer hpath 0 (codewords (s.ahead.map (darkAt s)) m)) (8 * m)
  rwa [ahead_setBuffer s hfits] at h

theorem filled_darkAt (s : State) {m : Nat} (hm : m ≤ 256) (idx : Nat) : darkAt (s.filled m) idx = darkAt s idx := by
  rw [State.filled, takeAll_frame]
  exact darkAt_setBuffer s (fits_codewords hm _) idx

theorem filled_side (s : State) (m : Nat) : (s.filled m).side = s.side := by
  rw [State.filled, takeAll_frame]
  exact setBuffer_side s 0 _

theorem filled_status (s : State) (m : Nat) : (s.filled m).status = s.status := by
  rw [State.filled, takeAll_status, State.setBuffer_status]

/-- The next codeword takes eight more cells and writes one byte. -/
theorem filled_succ (s : State) (m : Nat) :
    s.filled (m + 1) = ((s.filled m).takeAll ((s.ahead.drop (8 * m)).take 8)).setCw m
      (packBits (((s.ahead.drop (8 * m)).take 8).map (darkAt s))) := by
  have hcells : s.ahead.take (8 * (m + 1)) = s.ahead.take (8 * m) ++ (s.ahead.drop (8 * m)).take 8 := List.take_add
  rw [State.filled, codewords_succ, setBuffer_concat, Nat.zero_add, codewords_length, takeAll_setCw, hcells,
    takeAll_append, ← List.map_drop, ← List.map_take]
  rfl

theorem fillBytes_found {s t : State} {b : Byte} (h : s.takeBits 0 8 = (t, some b)) (i k : Nat) :
    s.fillBytes i (k + 1) = (t.setCw i b).fillBytes (i + 1) k := by
  rw [State.fillBytes, h]

theorem fillBytes_exhausted {s t : State} (h : s.takeBits 0 8 = (t, none)) (i k : Nat) :
    s.fillBytes i (k + 1) = (t, false) := by
  rw [State.fillBytes, h]

/-- The loop after the codewords whose bits are all there. -/
theorem fillBytes_filled {s : State} (hpath : s.onPath) {m : Nat} (hm : m ≤ 256) (hbits : 8 * m ≤ s.ahead.length)
    (k : Nat) : s.fillBytes 0 (m + k) = (s.filled m).fillBytes m k := by
  induction m generalizing k with
  | zero =>
    rw [Nat.zero_add]
    rfl
  | succ m ih =>
    obtain ⟨hahead, hpath'⟩ := filled_ahead hpath (show m ≤ 256 by omega)
    rw [Nat.add_right_comm, Nat.add_assoc, ih (by omega) (by omega)]
    obtain ⟨-, htake⟩ | ⟨hshort, -⟩ := takeBits_cases hpath' 0 8
    · rw [fillBytes_found htake, filled_succ, hahead, funext (filled_darkAt s (show m ≤ 256 by omega))]
      rfl
    · rw [hahead, List.length_drop] at hshort
      omega

/-- The loop assembles its codewords, or takes all cells and drops the bits of the partial byte. -/
theorem fillBytes_cases {s : State} (hpath : s.onPath) {k : Nat} (hk : k ≤ 256) :
    (8 * k ≤ s.ahead.length ∧ s.fillBytes 0 k = (s.filled k, true)) ∨
    (s.ahead.length < 8 * k ∧ s.fillBytes 0 k =
      (((s.setBuffer 0 (codewords (s.ahead.map (darkAt s)) (s.ahead.length / 8))).takeAll s.ahead).moveTo
        (idxEnd s.side), false)) := by
  obtain hshort | henough := Nat.lt_or_ge s.ahead.length (8 * k)
  case inr => exact .inl ⟨henough, fillBytes_filled hpath hk henough 0⟩
  case inl =>
    refine .inr ⟨hshort, ?_⟩
    obtain ⟨l, rfl⟩ : ∃ l, k = s.ahead.length / 8 + (l + 1) := ⟨k - s.ahead.length / 8 - 1, by omega⟩
    generalize hm : s.ahead.length / 8 = m
    obtain ⟨hahead, hpath'⟩ := filled_ahead hpath (show m ≤ 256 by omega)
    rw [fillBytes_filled hpath (by omega) (by omega)]
    obtain ⟨henough, -⟩ | ⟨-, htake⟩ := takeBits_cases hpath' 0 8
    · rw [hahead, List.length_drop] at henough
      omega
    · rw [fillBytes_exhausted htake, hahead, filled_side, State.filled, ← takeAll_append, List.take_append_drop]

/-- The loop writes the whole bytes that the cells ahead fill, and no other byte of memory. -/
theorem fillBytes_peek {s : State} (hpath : s.onPath) {k : Nat} (hk : k ≤ 256) (a : Nat) :
    (s.fillBytes 0 k).1.peek a =
      (s.setBuffer 0 (codewords (s.ahead.map (darkAt s)) (min k (s.ahead.length / 8)))).peek a := by
  obtain ⟨henough, hfill⟩ | ⟨hshort, hfill⟩ := fillBytes_cases hpath hk
  · rw [hfill, Nat.min_eq_left (by omega), State.filled, takeAll_frame]
    rfl
  · rw [hfill, Nat.min_eq_right (by omega), takeAll_frame]
    rfl

/-! ### The command -/

/-- The state in which the codeword loop of `FF_FILL` begins. -/
def State.fillStart (s : State) : State := s.invalidateRs.startCursor

theorem fillStart_onPath (s : State) : s.fillStart.onPath := Nat.zero_le _

theorem fillStart_ahead (s : State) : s.fillStart.ahead = dataFrom s 0 := rfl

theorem exec_ffFill (s : State) :
    exec .ffFill s = .next (if s.ffCfgOk && s.rsN != 0 then finishFill (s.fillStart.fillBytes 0 s.n)
      else s.done .errCfg) := rfl

/-- The configuration check of R190. -/
theorem fillConfig_iff (s : State) : (s.ffCfgOk && s.rsN != 0) = true ↔ ffConfig s ∧ 1 ≤ s.n := by
  rw [Bool.and_eq_true, ffCfgOk_iff, bne_iff_ne, ne_eq, ← BitVec.toNat_inj, Nat.one_le_iff_ne_zero]
  rfl

theorem finishFill_exhausted (s : State) : finishFill (s, false) = (s.setFfState .ended).done .errUnderrun := rfl

theorem finishFill_leftover {s t : State} (h : s.seek = (t, true)) : finishFill (s, true) = t.done .errLeftover := by
  simp [finishFill, h]

theorem finishFill_exact {s t : State} (h : s.seek = (t, false)) :
    finishFill (s, true) = (t.setFfState .ended).done .ok := by
  simp [finishFill, h]

theorem finishFill_frame (r : State × Bool) :
    finishFill r = { r.1 with ffIdx := (finishFill r).ffIdx
                              status := { r.1.status with code := (finishFill r).status.code
                                                          ffState := (finishFill r).status.ffState } } := by
  obtain ⟨s, _ | _⟩ := r
  · rfl
  · obtain h | h : s.seek = (s.seek.1, true) ∨ s.seek = (s.seek.1, false) := by
      cases hfound : s.seek.2
      · exact .inr (Prod.ext rfl hfound)
      · exact .inl (Prod.ext rfl hfound)
    · rw [finishFill_leftover h]; rfl
    · rw [finishFill_exact h]; rfl

theorem exec_ffFill_ok {s : State} (hconfig : ffConfig s) (hn : 1 ≤ s.n) :
    exec .ffFill s = .next (finishFill (s.fillStart.fillBytes 0 s.n)) := by
  rw [exec_ffFill, if_pos ((fillConfig_iff s).mpr ⟨hconfig, hn⟩)]

/-- `FF_FILL` changes `FF_IDX`, `FF_CNT`, `FF_LAST`, `FF_STATE`, `CODE` and the memory after its start and nothing
else. -/
theorem finishFill_fillBytes_keeps (s : State) (k : Nat) :
    (finishFill (s.fillBytes 0 k)).status.stage = s.status.stage ∧
      (finishFill (s.fillBytes 0 k)).status.szero = s.status.szero ∧
      (finishFill (s.fillBytes 0 k)).ffData = s.ffData ∧ keepsOperands s (finishFill (s.fillBytes 0 k)) ∧
      keepsRsResults s (finishFill (s.fillBytes 0 k)) ∧ keepsPort s (finishFill (s.fillBytes 0 k)) := by
  rw [finishFill_frame, fillBytes_frame]
  exact ⟨rfl, rfl, rfl, ⟨rfl, rfl, rfl⟩, ⟨rfl, rfl, rfl, rfl, rfl, rfl⟩, rfl, rfl, rfl, rfl⟩

theorem finishFill_peek (r : State × Bool) (a : Nat) : (finishFill r).peek a = r.1.peek a := by
  rw [finishFill_frame]
  rfl

/-- `FF_FILL` where the cells are too few. -/
theorem finishFill_short {s : State} (hpath : s.onPath) {k : Nat} (hk : k ≤ 256) (h : s.ahead.length < 8 * k) :
    finishFill (s.fillBytes 0 k) =
      ((((s.setBuffer 0 (codewords (s.ahead.map (darkAt s)) (s.ahead.length / 8))).takeAll s.ahead).moveTo
        (idxEnd s.side)).setFfState .ended).done .errUnderrun := by
  obtain ⟨henough, -⟩ | ⟨-, hfill⟩ := fillBytes_cases hpath hk
  · omega
  · rw [hfill, finishFill_exhausted]

/-- `FF_FILL` where the cells are just enough. -/
theorem finishFill_enough {s : State} (hpath : s.onPath) {k : Nat} (hk : k ≤ 256) (h : s.ahead.length = 8 * k) :
    finishFill (s.fillBytes 0 k) = (((s.filled k).moveTo (idxEnd s.side)).setFfState .ended).done .ok := by
  obtain ⟨-, hfill⟩ | ⟨hshort, -⟩ := fillBytes_cases hpath hk
  · obtain ⟨hahead, hpath'⟩ := filled_ahead hpath hk
    obtain ⟨-, hseek⟩ | ⟨j, -, hmore, -⟩ := seek_cases hpath'
    · rw [hfill, finishFill_exact hseek, filled_side]
    · rw [hahead, List.drop_eq_nil_of_le h.le] at hmore
      exact absurd hmore (List.cons_ne_nil _ _).symm
  · omega

/-- `FF_FILL` where cells are left over: the cursor rests on the first of them. -/
theorem finishFill_more {s : State} (hpath : s.onPath) {k : Nat} (hk : k ≤ 256) (h : 8 * k < s.ahead.length) :
    finishFill (s.fillBytes 0 k) = ((s.filled k).moveTo (s.ahead.getD (8 * k) 0)).done .errLeftover := by
  obtain ⟨-, hfill⟩ | ⟨hshort, -⟩ := fillBytes_cases hpath hk
  · obtain ⟨hahead, hpath'⟩ := filled_ahead hpath hk
    rw [List.drop_eq_getElem_cons h, ← List.getD_eq_getElem s.ahead 0 h] at hahead
    obtain ⟨hnone, -⟩ | ⟨j, -, hmore, hseek⟩ := seek_cases hpath'
    · rw [hahead] at hnone
      exact absurd hnone (List.cons_ne_nil _ _)
    · obtain ⟨hj, -⟩ := List.cons_eq_cons.mp (hahead.symm.trans hmore)
      rw [hfill, finishFill_leftover hseek, hj]
  · omega

/-- `FF_CNT` counts the bits of the codewords. -/
theorem filled_ffCnt {s : State} {m : Nat} (h : 8 * m ≤ s.ahead.length) :
    (s.filled m).ffCnt = s.ffCnt + BitVec.ofNat 16 (8 * m) := by
  rw [State.filled, takeAll_ffCnt, setBuffer_ffCnt, List.length_take_of_le h]

theorem filled_ffLast {s : State} {m : Nat} (hm : 1 ≤ m) (h : 8 * m ≤ s.ahead.length) :
    (s.filled m).ffLast = lastAt s (s.ahead.getD (8 * m - 1) 0) := by
  rw [State.filled, takeAll_take_ffLast (by omega) h, lastAt_setBuffer]

theorem ahead_length_lt (s : State) : s.ahead.length < 2 ^ 16 :=
  (dataFrom_length_le s _).trans_lt (idxEnd_side_lt s)

/-- A count from 0 up to the number of cells ahead does not wrap. -/
theorem toNat_zero_add_ofNat {k : Nat} (h : k < 2 ^ 16) : ((0 : BitVec 16) + BitVec.ofNat 16 k).toNat = k :=
  (congrArg BitVec.toNat (BitVec.zero_add _)).trans (by rw [BitVec.toNat_ofNat, Nat.mod_eq_of_lt h])

end Sys2Proof.Machine

namespace Sys2Proof.Proofs

open Sys2Proof.Machine Sys2Proof.Claims

/-- Settles O48: the codeword loop takes the cells and writes the bytes that they fill, and the last `seek` tells the
exact match from the leftover. -/
theorem ffFillAssemblesTheCodewords : Obligations.FfFillAssemblesTheCodewords := by
  refine ⟨rfl, fun s => ⟨fun hconfig => ?fails, fun hconfig hn all hall => ?fills⟩⟩
  case fails =>
    rw [exec_ffFill, if_neg (mt (fillConfig_iff s).mp hconfig)]
    rfl
  obtain rfl : all = s.fillStart.ahead := hall.trans (fillStart_ahead s).symm
  have hpath := fillStart_onPath s
  have hk : s.n ≤ 256 := s.rsN.isLt.le
  have hlength := ahead_length_lt s.fillStart
  obtain ⟨hstage, hszero, hdata, hoperands, hresults, hport⟩ := finishFill_fillBytes_keeps s.fillStart s.n
  have hpeek : ∀ a, (finishFill (s.fillStart.fillBytes 0 s.n)).peek a = _ := fun a =>
    (finishFill_peek _ a).trans (fillBytes_peek hpath hk a)
  refine ⟨_, exec_ffFill_ok hconfig hn, hstage, hszero, hdata, fun i b hi hbits hb => ?byte, fun a ha => ?outside,
    fun hshort => ?short, fun henough => ?enough, fun hmore => ?more, fun hwhole => ?whole,
    hoperands, hresults, hport⟩
  case byte =>
    have hi' : i < min s.n (s.fillStart.ahead.length / 8) := by omega
    have hcw := (hpeek (cwOffset i)).trans (cw_setBuffer_zero s.fillStart _ (by rwa [codewords_length]))
    rw [State.cw, hcw, codewords_getLsbD hi' (by rwa [List.length_map]) hb, map_darkAt_getD _ (by omega)]
    rfl
  case outside =>
    refine (hpeek a).trans (State.peek_setBuffer_other _ _ _ fun i hi => ?_)
    rw [codewords_length] at hi
    rw [Nat.zero_add]
    exact ha i (by omega) (by omega)
  case short =>
    rw [finishFill_short hpath hk hshort]
    refine ⟨rfl, rfl, ?idx, ?cnt, ?last⟩
    case idx =>
      rw [State.done_ffIdx, State.setFfState_ffIdx]
      exact toNat_ffIdx_moveTo _ (idxEnd_side_lt s)
    case cnt =>
      refine (congrArg BitVec.toNat ((takeAll_ffCnt _ _).trans ?_)).trans (toNat_zero_add_ofNat hlength)
      rw [setBuffer_ffCnt]
      rfl
    case last =>
      refine (takeAll_ffLast _ _).trans ?_
      rw [setBuffer_ffLast, lastAt_setBuffer]
      rfl
  case enough =>
    rw [finishFill_enough hpath hk henough]
    exact ⟨rfl, rfl, toNat_ffIdx_moveTo (s.fillStart.filled s.n) (idxEnd_side_lt s)⟩
  case more =>
    rw [finishFill_more hpath hk hmore]
    exact ⟨rfl, congrArg Status.ffState (filled_status s.fillStart s.n),
      toNat_ffIdx_moveTo (s.fillStart.filled s.n) ((getD_ahead_lt hmore).trans (idxEnd_side_lt _))⟩
  case whole =>
    obtain ⟨hcnt, hlast⟩ : (finishFill (s.fillStart.fillBytes 0 s.n)).ffCnt = (s.fillStart.filled s.n).ffCnt ∧
        (finishFill (s.fillStart.fillBytes 0 s.n)).ffLast = (s.fillStart.filled s.n).ffLast := by
      obtain hmore | henough := Nat.lt_or_eq_of_le hwhole
      · rw [finishFill_more hpath hk hmore]
        exact ⟨rfl, rfl⟩
      · rw [finishFill_enough hpath hk henough.symm]
        exact ⟨rfl, rfl⟩
    rw [hcnt, hlast, filled_ffCnt hwhole, filled_ffLast hn hwhole]
    exact ⟨toNat_zero_add_ofNat (by omega), rfl⟩

end Sys2Proof.Proofs
end

section
/-! PROOFS. The system commands (`43_system_commands.md` R210, R211): what `NOP` and `SRST` change and leave unchanged,
and the obligations O7 and O8. -/

namespace Sys2Proof.Machine

open Sys2Proof.Claims

theorem exec_nop (s : State) : exec .nop s = .next (s.done .ok) := rfl

theorem exec_srst (s : State) : exec .srst s = .next (s.softReset.done .ok) := rfl

/-- The end of a command is the claims' change of `CODE` alone (`00_scope.md` R15). -/
theorem State.done_eq_onlyCode (s : State) (code : Code) : s.done code = onlyCode s code := rfl

theorem keepsPort_done (s : State) (code : Code) : keepsPort s (s.done code) :=
  ⟨s.done_cfg code, s.done_requests code, s.done_response code, s.done_resets code⟩

/-- The reset values of a soft reset spare the memories (`70_reset_and_hazards.md` R261), also where nothing has written
them: the reset count, which their contents then depend on, stays. -/
theorem keepsMemory_softReset (s : State) : keepsMemory s s.softReset :=
  keepsMemory_of_eq s.softReset_mem s.softReset_resets

/-- A soft reset ended `OK` has `STATUS` at its reset value: `CODE` is 0 there too. -/
theorem softReset_done_status (s : State) : (s.softReset.done .ok).status = Status.reset := by
  rw [State.done_status, State.softReset_status]
  rfl

end Sys2Proof.Machine

namespace Sys2Proof.Proofs

open Sys2Proof.Machine Sys2Proof.Claims

/-- Settles O7: the row of R93's table, and the command is its end. -/
theorem nopOnlySetsCodeOk : Obligations.NopOnlySetsCodeOk := by
  refine ⟨(decode_eq_ok_iff_mem _ _).mpr (by decide), fun s => ?_⟩
  rw [exec_nop, State.done_eq_onlyCode]

/-- Settles O8: the row of R93's table, the reset values of each register and array, which the command's end leaves as
they are but for `CODE`, and the frames of the two. -/
theorem srstResetsRegistersAndKeepsMemories : Obligations.SrstResetsRegistersAndKeepsMemories := by
  refine ⟨(decode_eq_ok_iff_mem _ _).mpr (by decide), fun s => ⟨s.softReset.done .ok, exec_srst s,
    softReset_done_status s, s.softReset_rsN, s.softReset_rsNsym, s.softReset_rsL, s.softReset_rsErrcnt,
    s.softReset_ffSize, s.softReset_ffIdx, s.softReset_ffCnt, s.softReset_ffData, ?last, s.softReset_syn,
    s.softReset_lambda, s.softReset_errloc, s.softReset_errval, ?memory, ?port⟩⟩
  case last => rw [State.done_ffLast, State.softReset_ffLast, lastCellWord_zero]
  case memory => exact (keepsMemory_softReset s).trans (keepsMemory_done _ _)
  case port => exact keepsPort_done s.softReset .ok

end Sys2Proof.Proofs
end

section
/-! PROOFS. Command words and the moves that carry them (`30_encoding.md` R90 to R94, `10_state.md` R22): the
obligations O2, O3, O4 and O6. -/

namespace Sys2Proof.Machine

/-- A legal word written to `CMD` runs its command, in the state in which the port has answered. -/
theorem step_command {s : State} {rest : List Request} {w : Word} {i : Instr}
    (hpending : s.requests = .write cmdOffset w :: rest) (hdecode : decode w = .ok i) :
    step s = exec i { s with requests := rest, response := some .completed } :=
  calc step s = busWrite cmdOffset w { s with requests := rest } := step_cons hpending
    _ = issue w { s with requests := rest, response := some .completed } := busWrite_cmd w _
    _ = exec i { s with requests := rest, response := some .completed } := issue_ok hdecode _

/-- The placed word is the host's next write to `CMD` (`30_encoding.md` R90). -/
theorem withFetchWord_requests (s : State) (w : Word) :
    (s.withFetchWord 32 w.toNat).requests = .write cmdOffset w :: s.requests := by
  have hword : BitVec.ofNat 32 (w.toNat % 2 ^ 32) = w := by
    rw [Nat.mod_eq_of_lt w.isLt, BitVec.ofNat_toNat, BitVec.setWidth_eq]
  rw [State.withFetchWord, hword]

end Sys2Proof.Machine

namespace Sys2Proof.Proofs

open Sys2Proof.Machine Sys2Proof.Claims

/-- Settles O2: the decoder answers well-formed commands only, each at its own word, and answers every one of them. -/
theorem decodeExactlyInvertsEncode : Obligations.DecodeExactlyInvertsEncode := by
  intro w i
  constructor
  · exact encode_of_decode
  · rintro ⟨hwf, rfl⟩
    exact decode_encode hwf

/-- Settles O3: the legal words are rows of R93's table, and the two others leave R94's procedure at its error exits. -/
theorem specWordsDecodeToTheirCommands : Obligations.SpecWordsDecodeToTheirCommands :=
  ⟨(decode_eq_ok_iff_mem _ _).mpr (by decide), (decode_eq_ok_iff_mem _ _).mpr (by decide),
    (decode_eq_ok_iff_mem _ _).mpr (by decide), (decode_eq_ok_iff_mem _ _).mpr (by decide),
    (decode_eq_ok_iff_mem _ _).mpr (by decide), rfl, rfl⟩

/-- Settles O4: the offset of the move is that of `CMD`. -/
theorem stepRunsTheDecodedCommand : Obligations.StepRunsTheDecodedCommand := fun _ _ _ _ hpending hdecode =>
  step_command hpending hdecode

/-- Settles O6: the placed word is the next move, and it decodes to the command. -/
theorem placedWordRunsNext : Obligations.PlacedWordRunsNext := fun s i hwf =>
  step_command (withFetchWord_requests s (encode i)) (decode_encode hwf)

end Sys2Proof.Proofs
end

section
/-! PROOFS. What a step can do (`20_memory.md` R72, `60_exceptions.md` R233, R241): the six kinds of step, the induction
principle for what every step keeps, and the obligations O9, O18 and O55. -/

namespace Sys2Proof.Machine

/-- The kinds of step. Tied to `step` by `served_of_step`. -/
inductive Served (s : State) : State → Prop
  /-- no move is pending -/
  | wait (hpending : s.requests = []) : Served s s
  /-- a read, or a write that ends in a bus error: only the answer changes -/
  | answer {q : Request} {rest : List Request} (r : Response) (hpending : s.requests = q :: rest)
      (hq : q ≠ .hardReset) : Served s { s with requests := rest, response := some r }
  /-- a write to a read-write location -/
  | store {off : Offset} {v : Word} {rest : List Request} {l : Loc} (hpending : s.requests = .write off v :: rest)
      (hl : locate s.cfg off = some l) (hcmd : l ≠ .cmd) :
      Served s { s.storeAt l v with requests := rest, response := some .completed }
  /-- a write of an illegal word to `CMD` -/
  | illegal {w : Word} {rest : List Request} (hpending : s.requests = .write cmdOffset w :: rest) :
      Served s ({ s with requests := rest, response := some .completed }.done .errCmd)
  /-- a write of a command's word to `CMD` -/
  | command {w : Word} {rest : List Request} {i : Instr} {t : State}
      (hpending : s.requests = .write cmdOffset w :: rest) (hdecode : decode w = .ok i)
      (hexec : exec i { s with requests := rest, response := some .completed } = .next t) :
      Served s t
  /-- a hardware reset -/
  | reset {rest : List Request} (hpending : s.requests = .hardReset :: rest) :
      Served s { s with requests := rest }.hardwareReset

/-- Taking a move off the list commutes with a store. -/
theorem storeAt_requests_comm (s : State) (rest : List Request) (l : Loc) (v : Word) :
    State.storeAt { s with requests := rest } l v = { s.storeAt l v with requests := rest } := by
  cases l <;> rfl

/-- Every step answers a next state of one of the six kinds. -/
theorem exists_served (s : State) : ∃ t, step s = .next t ∧ Served s t := by
  cases hpending : s.requests with
  | nil => exact ⟨s, step_nil hpending, .wait hpending⟩
  | cons q rest =>
    cases q with
    | read off =>
      obtain ⟨r, -, hstep⟩ := step_read hpending
      exact ⟨_, hstep, .answer r hpending nofun⟩
    | hardReset => exact ⟨_, step_cons hpending, .reset hpending⟩
    | write off v =>
      have hserve : step s = busWrite off v { s with requests := rest } := step_cons hpending
      obtain ⟨hl, -⟩ | ⟨l, hl, hcmd, -, hstore⟩ | ⟨-, herror⟩ := busWrite_cases off v { s with requests := rest }
      · obtain rfl : off = cmdOffset := locate_inj hl (locate_cmd s.cfg)
        rw [busWrite_cmd] at hserve
        cases hdecode : decode v with
        | error e => exact ⟨_, hserve.trans (issue_error hdecode _), .illegal hpending⟩
        | ok i =>
          obtain ⟨t, hexec⟩ := exec_next i { s with requests := rest, response := some .completed }
          exact ⟨t, (hserve.trans (issue_ok hdecode _)).trans hexec, .command hpending hdecode hexec⟩
      · rw [storeAt_requests_comm] at hstore
        exact ⟨_, hserve.trans hstore, .store hpending hl hcmd⟩
      · exact ⟨_, hserve.trans herror, .answer _ hpending nofun⟩

theorem served_of_step {s t : State} (h : step s = .next t) : Served s t := by
  obtain ⟨u, hstep, hserved⟩ := exists_served s
  obtain rfl := Host.Outcome.next.inj (hstep.symm.trans h)
  exact hserved

/-- What holds of a state whatever its port and its `CODE` are, and is kept by stores, commands and hardware resets, is
kept by every step. -/
theorem step_keeps {P : State → Prop}
    (hport : ∀ s rest r, P s → P { s with requests := rest, response := r })
    (hdone : ∀ s code, P s → P (s.done code))
    (hstore : ∀ (s : State) l v, l.inMap s.cfg → P s → P (s.storeAt l v))
    (hexec : ∀ i s t, exec i s = .next t → P s → P t)
    (hreset : ∀ s, P s → P s.hardwareReset)
    {s t : State} (hs : P s) (h : step s = .next t) : P t := by
  cases served_of_step h with
  | wait => exact hs
  | answer r => exact hport s _ (some r) hs
  | store _ hl => exact hport _ _ _ (hstore s _ _ (inMap_of_locate hl).1 hs)
  | illegal => exact hdone _ _ (hport s _ _ hs)
  | command _ _ hrun => exact hexec _ _ t hrun (hport s _ _ hs)
  | reset => exact hreset _ (hport s _ s.response hs)

end Sys2Proof.Machine

namespace Sys2Proof.Proofs

open Sys2Proof.Machine Sys2Proof.Claims

/-- Settles O55: each kind of step answers a next state. -/
theorem everyStepAnswersANextState : Obligations.EveryStepAnswersANextState := fun s =>
  (exists_served s).imp fun _ h => h.1

/-- Settles O18: no move but a `CMD` write and a hardware reset runs a command, and no store reaches `CODE`. -/
theorem onlyCommandsChangeCode : Obligations.OnlyCommandsChangeCode := by
  rintro s t q rest hpending ⟨hreset, hcommand⟩ hstep
  cases served_of_step hstep with
  | wait => rfl
  | answer => rfl
  | store => exact storeAt_code s _ _
  | illegal h => exact absurd (List.cons.inj (hpending.symm.trans h)).1 (hcommand _)
  | command h => exact absurd (List.cons.inj (hpending.symm.trans h)).1 (hcommand _)
  | reset h => exact absurd (List.cons.inj (hpending.symm.trans h)).1 hreset

/-- Settles O9: the reset empties the memory list and counts the reset, so that every byte is a free value of the new
count. -/
theorem hardwareResetLeavesResetValuesAndFreeMemories : Obligations.HardwareResetLeavesResetValuesAndFreeMemories :=
  fun _ _ hpending => ⟨_, step_cons hpending, rfl, fun _ => rfl⟩

end Sys2Proof.Proofs
end

section
/-! PROOFS. What a command leaves unchanged (`30_encoding.md` R96): the frame of the Reed-Solomon commands, the memory
that each command can write, and the obligations O19, O20, O41 and O54. -/

namespace Sys2Proof.Machine

open Sys2Proof.Claims

/-! ### The Reed-Solomon commands -/

/-- What no Reed-Solomon command touches: operands, filler registers, port, and the memory outside `CW[0..RS_N-1]`. -/
structure RsFrame (s t : State) : Prop where
  operands : keepsOperands s t
  cursor : keepsCursor s t
  port : keepsPort s t
  outside : ∀ a, (∀ k, k < s.n → a ≠ cwOffset k) → t.peek a = s.peek a

theorem RsFrame.refl (s : State) : RsFrame s s :=
  ⟨⟨rfl, rfl, rfl⟩, ⟨rfl, rfl, rfl, rfl, rfl⟩, ⟨rfl, rfl, rfl, rfl⟩, fun _ _ => rfl⟩

theorem RsFrame.n_eq {s t : State} (h : RsFrame s t) : t.n = s.n := congrArg BitVec.toNat h.operands.1

theorem RsFrame.trans {s t u : State} (h : RsFrame s t) (h' : RsFrame t u) : RsFrame s u := by
  obtain ⟨⟨hn, hnsym, hsize⟩, ⟨hidx, hcnt, hdata, hlast, hff⟩, ⟨hcfg, hreq, hresp, hresets⟩, hmem⟩ := id h
  obtain ⟨⟨hn', hnsym', hsize'⟩, ⟨hidx', hcnt', hdata', hlast', hff'⟩, ⟨hcfg', hreq', hresp', hresets'⟩, hmem'⟩ := h'
  refine ⟨⟨hn'.trans hn, hnsym'.trans hnsym, hsize'.trans hsize⟩,
    ⟨hidx'.trans hidx, hcnt'.trans hcnt, hdata'.trans hdata, hlast'.trans hlast, hff'.trans hff⟩,
    ⟨hcfg'.trans hcfg, hreq'.trans hreq, hresp'.trans hresp, hresets'.trans hresets⟩, fun a ha => ?_⟩
  exact (hmem' a fun k hk => ha k (hk.trans_eq h.n_eq)).trans (hmem a ha)

theorem RsFrame.done {s t : State} (h : RsFrame s t) (code : Code) : RsFrame s (t.done code) :=
  h.trans ⟨⟨rfl, rfl, rfl⟩, ⟨rfl, rfl, rfl, rfl, rfl⟩, keepsPort_done t code, fun _ _ => rfl⟩

theorem performSyn_frame (s : State) : RsFrame s (performSyn s).1 := by
  obtain ⟨-, h⟩ | ⟨-, h⟩ := performSyn_cases s <;> rw [h] <;>
    exact ⟨⟨rfl, rfl, rfl⟩, ⟨rfl, rfl, rfl, rfl, rfl⟩, ⟨rfl, rfl, rfl, rfl⟩, fun _ _ => rfl⟩

theorem performKes_frame (s : State) : RsFrame s (performKes s).1 := by
  obtain ⟨-, h⟩ | ⟨-, -, h⟩ | ⟨-, -, h⟩ := performKes_cases s <;> rw [h] <;>
    exact ⟨⟨rfl, rfl, rfl⟩, ⟨rfl, rfl, rfl, rfl, rfl⟩, ⟨rfl, rfl, rfl, rfl⟩, fun _ _ => rfl⟩

theorem performChn_frame (s : State) : RsFrame s (performChn s).1 := by
  obtain ⟨-, h⟩ | ⟨-, -, h⟩ | ⟨-, -, h⟩ := performChn_cases s <;> rw [h] <;>
    exact ⟨⟨rfl, rfl, rfl⟩, ⟨rfl, rfl, rfl, rfl, rfl⟩, ⟨rfl, rfl, rfl, rfl⟩, fun _ _ => rfl⟩

theorem performFny_frame (s : State) : RsFrame s (performFny s).1 := by
  obtain ⟨-, h⟩ | ⟨-, h⟩ := performFny_cases s <;> rw [h] <;>
    exact ⟨⟨rfl, rfl, rfl⟩, ⟨rfl, rfl, rfl, rfl, rfl⟩, ⟨rfl, rfl, rfl, rfl⟩, fun _ _ => rfl⟩

/-- The commit writes the buffer in use and `STAGE`. -/
theorem setBuffer_candidate_frame (s : State) : RsFrame s ((s.setBuffer 0 s.candidate).setStage .apl) := by
  refine ⟨keepsOperands_setBuffer s 0 s.candidate, keepsCursor_setBuffer s 0 s.candidate,
    keepsPort_setBuffer s 0 s.candidate, fun a ha => ?_⟩
  refine State.peek_setBuffer_other s 0 s.candidate fun k hk => ?_
  rw [Nat.zero_add]
  exact ha k (by simpa using hk)

theorem performApl_frame (s : State) : RsFrame s (performApl s).1 := by
  obtain ⟨-, h⟩ | ⟨-, -, h⟩ | ⟨-, -, h⟩ := performApl_cases s <;> rw [h]
  · exact .refl s
  · exact .refl s
  · exact setBuffer_candidate_frame s

theorem andThen_frame {s : State} {r : State × Code} {stage : State → State × Code} (hr : RsFrame s r.1)
    (hstage : RsFrame r.1 (stage r.1).1) : RsFrame s (andThen r stage).1 := by
  by_cases h : r.2 = .ok
  · rw [andThen_ok h]
    exact hr.trans hstage
  · rw [andThen_stop h]
    exact hr

theorem performDec_frame (s : State) : RsFrame s (performDec s).1 :=
  have hkes := andThen_frame (performSyn_frame s) (performKes_frame _)
  have hchn := andThen_frame hkes (performChn_frame _)
  have hfny := andThen_frame hchn (performFny_frame _)
  andThen_frame hfny (performApl_frame _)

theorem exec_rs_frame {i : Instr} {s t : State} (hi : isRs i) (h : exec i s = .next t) : RsFrame s t := by
  obtain rfl | rfl | rfl | rfl | rfl | rfl := hi <;> cases h
  · exact (performSyn_frame s).done _
  · exact (performKes_frame s).done _
  · exact (performChn_frame s).done _
  · exact (performFny_frame s).done _
  · exact (performApl_frame s).done _
  · exact (performDec_frame s).done _

/-! ### Every command -/

/-- `FF_GET` is refused, which changes `CODE` only, or takes its bits. -/
theorem exec_ffGet_cases (n : BitVec 8) (s : State) :
    (∃ code, exec (.ffGet n) s = .next (s.done code)) ∨
      (s.status.ffState ≠ .idle ∧ exec (.ffGet n) s = .next (finishGet (s.takeBits 0 n.toNat))) := by
  cases hcount : legalCount n with
  | false => exact .inl ⟨.errCmd, by rw [exec_ffGet, hcount]; rfl⟩
  | true =>
    by_cases hidle : s.status.ffState = .idle
    · exact .inl ⟨.errSeq, by rw [exec_ffGet, hcount, if_pos hidle]; rfl⟩
    · exact .inr ⟨hidle, exec_ffGet_active hcount hidle⟩

theorem exec_ffStart_cases (s : State) :
    (ffConfig s ∧ exec .ffStart s = .next (s.startCursor.done .ok)) ∨
      (¬ ffConfig s ∧ exec .ffStart s = .next (s.done .errCfg)) := by
  rw [exec_ffStart, ← ffCfgOk_iff]
  by_cases h : s.ffCfgOk = true
  · exact .inl ⟨h, by rw [if_pos h]⟩
  · exact .inr ⟨h, by rw [if_neg h]⟩

theorem exec_ffFill_cases (s : State) :
    (ffConfig s ∧ exec .ffFill s = .next (finishFill (s.fillStart.fillBytes 0 s.n))) ∨
      exec .ffFill s = .next (s.done .errCfg) := by
  by_cases h : ffConfig s ∧ 1 ≤ s.n
  · exact .inl ⟨h.1, exec_ffFill_ok h.1 h.2⟩
  · exact .inr (by rw [exec_ffFill, if_neg (mt (fillConfig_iff s).mp h)])

/-- No command changes a parameter, a pending move, the answer or the reset count. -/
theorem exec_keepsPort {i : Instr} {s t : State} (h : exec i s = .next t) : keepsPort s t := by
  cases i with
  | nop | srst => cases h; exact ⟨rfl, rfl, rfl, rfl⟩
  | rsSyn | rsKes | rsChn | rsFny | rsApl | rsDec => exact (exec_rs_frame (by simp [isRs]) h).port
  | ffStart =>
    obtain ⟨-, hexec⟩ | ⟨-, hexec⟩ := exec_ffStart_cases s <;> cases hexec.symm.trans h <;> exact ⟨rfl, rfl, rfl, rfl⟩
  | ffGet n =>
    obtain ⟨code, hexec⟩ | ⟨-, hexec⟩ := exec_ffGet_cases n s <;> cases hexec.symm.trans h
    · exact keepsPort_done s code
    · exact (finishGet_takeBits_keeps s 0 n.toNat).2.2.2
  | ffFill =>
    obtain ⟨-, hexec⟩ | hexec := exec_ffFill_cases s <;> cases hexec.symm.trans h
    · obtain ⟨-, -, -, -, -, hport⟩ := finishFill_fillBytes_keeps s.fillStart s.n
      exact hport
    · exact keepsPort_done s .errCfg

/-- No command writes memory outside the buffer in use. -/
theorem exec_peek_outside {i : Instr} {s t : State} (h : exec i s = .next t) {a : Nat}
    (ha : ∀ k, k < s.n → a ≠ cwOffset k) : t.peek a = s.peek a := by
  cases i with
  | nop => cases h; rfl
  | srst => cases h; exact keepsMemory_softReset s a
  | rsSyn | rsKes | rsChn | rsFny | rsApl | rsDec => exact (exec_rs_frame (by simp [isRs]) h).outside a ha
  | ffStart => obtain ⟨-, hexec⟩ | ⟨-, hexec⟩ := exec_ffStart_cases s <;> cases hexec.symm.trans h <;> rfl
  | ffGet n =>
    obtain ⟨code, hexec⟩ | ⟨-, hexec⟩ := exec_ffGet_cases n s <;> cases hexec.symm.trans h
    · rfl
    · exact (finishGet_takeBits_keeps s 0 n.toNat).2.2.1 a
  | ffFill =>
    obtain ⟨-, hexec⟩ | hexec := exec_ffFill_cases s <;> cases hexec.symm.trans h
    · rw [finishFill_peek, peek_fillBytes_other]
      · rfl
      · intro k hk
        rw [Nat.zero_add]
        exact ha k hk
    · rfl

/-- The commands that write `CW` (R96). -/
def writesCw (i : Instr) : Prop := i = .ffFill ∨ i = .rsApl ∨ i = .rsDec

theorem exec_keepsMemory {i : Instr} {s t : State} (h : exec i s = .next t) (hi : ¬ writesCw i) : keepsMemory s t := by
  cases i with
  | rsApl | rsDec | ffFill => exact absurd (by simp [writesCw]) hi
  | rsSyn => cases h; exact keepsMemory_conclude (performSyn_keepsMemory s)
  | rsKes => cases h; exact keepsMemory_conclude (performKes_keepsMemory s)
  | rsChn => cases h; exact keepsMemory_conclude (performChn_keepsMemory s)
  | rsFny => cases h; exact keepsMemory_conclude (performFny_keepsMemory s)
  | nop => cases h; exact keepsMemory_done s .ok
  | srst => cases h; exact keepsMemory_softReset s
  | ffStart =>
    obtain ⟨-, hexec⟩ | ⟨-, hexec⟩ := exec_ffStart_cases s <;> cases hexec.symm.trans h <;>
      exact keepsMemory_of_eq rfl rfl
  | ffGet n =>
    obtain ⟨code, hexec⟩ | ⟨-, hexec⟩ := exec_ffGet_cases n s <;> cases hexec.symm.trans h
    · exact keepsMemory_done s code
    · exact (finishGet_takeBits_keeps s 0 n.toNat).2.2.1

/-- No command changes a cell (`10_state.md` R42). -/
theorem exec_cell {i : Instr} {s t : State} (h : exec i s = .next t) (y x : Nat) : t.cell y x = s.cell y x := by
  have hn : s.n < 256 := s.rsN.isLt
  exact congrArg (BitVec.setWidth 2)
    (exec_peek_outside h fun k hk => (cwOffset_ne_cellOffset (hk.trans hn) y x).symm)

/-- A command that changes `CW[i]` writes `CW`, and `i` is an index of the buffer in use. -/
theorem exec_cw {i : Instr} {s t : State} (h : exec i s = .next t) {k : Nat} (hk : t.cw k ≠ s.cw k) :
    k < s.n ∧ writesCw i := by
  constructor
  · by_contra hge
    exact hk (exec_peek_outside h fun j hj heq => hge (cwOffset_inj heq ▸ hj))
  · by_contra hi
    exact hk (exec_keepsMemory h hi _)

end Sys2Proof.Machine

namespace Sys2Proof.Proofs

open Sys2Proof.Machine Sys2Proof.Claims

/-- Settles O41: the frames of the stages, and the chain of two frames. -/
theorem rsCommandsLeaveOperandsFillerAndOtherMemory : Obligations.RsCommandsLeaveOperandsFillerAndOtherMemory := by
  intro i s t hi hexec
  obtain ⟨hoperands, hcursor, hport, houtside⟩ := exec_rs_frame hi hexec
  refine ⟨hoperands, hcursor, hport, houtside, fun hapl hdec => exec_keepsMemory hexec ?_⟩
  rintro (rfl | rfl | rfl)
  · exact absurd hi (by simp [isRs])
  · exact hapl rfl
  · exact hdec rfl

/-- Settles O54: no store, command or reset touches the configuration record. -/
theorem stepNeverChangesTheConfiguration : Obligations.StepNeverChangesTheConfiguration := fun s _ hstep =>
  step_keeps (P := fun u => u.cfg = s.cfg) (fun _ _ _ h => h) (fun _ _ h => h)
    (fun u l v _ h => (storeAt_cfg u l v).trans h) (fun _ _ _ hexec h => (exec_keepsPort hexec).1.trans h)
    (fun _ h => h) rfl hstep

/-- Settles O19: answers and commands change no cell, and a store changes the cell of its own offset only. -/
theorem onlyTheHostChangesCells : Obligations.OnlyTheHostChangesCells := by
  intro s t y x hx hstep hchanged
  cases served_of_step hstep with
  | wait => exact absurd rfl hchanged
  | answer => exact absurd rfl hchanged
  | illegal => exact absurd rfl hchanged
  | command _ _ hexec => exact absurd (exec_cell hexec y x) hchanged
  | reset hpending => exact ⟨_, .inl hpending⟩
  | @store off v rest l hpending hl hcmd =>
    obtain ⟨hmap, hoff⟩ := inMap_of_locate hl
    refine ⟨rest, .inr ⟨off, v, hpending, ?_⟩⟩
    by_cases hcell : l = .cell y x
    · rw [hoff, hcell, offsetOf_cell]
    · exact absurd (storeAt_cell_other s hmap hx hcell v) hchanged

/-- Settles O20: a store changes the byte of its own offset only, and a command changes one of the buffer in use only if
it writes `CW`. -/
theorem onlyListedMovesChangeCodewords : Obligations.OnlyListedMovesChangeCodewords := by
  intro s t i hi hstep hchanged
  cases served_of_step hstep with
  | wait => exact absurd rfl hchanged
  | answer => exact absurd rfl hchanged
  | illegal => exact absurd rfl hchanged
  | reset hpending => exact ⟨_, .inl hpending⟩
  | @store off v rest l hpending hl hcmd =>
    refine ⟨rest, .inr (.inl ⟨off, v, hpending, ?_⟩)⟩
    by_cases hcw : l = .cw i
    · rw [(inMap_of_locate hl).2, hcw, offsetOf_cw]
    · exact absurd (storeAt_cw_other s (by omega) hcw v) hchanged
  | command hpending hdecode hexec =>
    obtain ⟨hn, hwrites⟩ := exec_cw hexec hchanged
    refine ⟨_, .inr (.inr ⟨hn, _, hpending, ?_⟩)⟩
    obtain rfl | rfl | rfl := hwrites
    · exact .inl hdecode
    · exact .inr (.inl hdecode)
    · exact .inr (.inr hdecode)

end Sys2Proof.Proofs
end

section
/-! PROOFS. The shape of the state (`10_state.md` R37 to R42): the arrays keep their sizes and the memory its canonical
form over every store, stage and command. The obligation O50. -/

namespace Sys2Proof.Machine

open Sys2Proof.Claims

/-! ### Memory -/

theorem ShapeOk.congr {s t : State} (h : ShapeOk s) (hcfg : t.cfg = s.cfg) (hsyn : t.syn.length = s.syn.length)
    (hlambda : t.lambda.length = s.lambda.length) (herrloc : t.errloc.length = s.errloc.length)
    (herrval : t.errval.length = s.errval.length) (hmem : t.mem = s.mem) : ShapeOk t where
  syn_length := by rw [hsyn, hcfg, h.syn_length]
  lambda_length := by rw [hlambda, hcfg, h.lambda_length]
  errloc_length := by rw [herrloc, hcfg, h.errloc_length]
  errval_length := by rw [herrval, hcfg, h.errval_length]
  mem_wf := hmem ▸ h.mem_wf
  mem_cells := by rw [hmem, hcfg]; exact h.mem_cells

theorem ShapeOk.poke {s : State} (h : ShapeOk s) {a : Nat} {v : Byte} (hcell : memoryCell s.cfg (a, v)) :
    ShapeOk (s.poke a v) where
  syn_length := h.syn_length
  lambda_length := h.lambda_length
  errloc_length := h.errloc_length
  errval_length := h.errval_length
  mem_wf := Memory.wf_write h.mem_wf a v
  mem_cells := by
    intro p hp
    obtain rfl | hp := Memory.mem_write hp
    · exact hcell
    · exact h.mem_cells p hp

theorem ShapeOk.setCw {s : State} (h : ShapeOk s) {i : Nat} (hi : i < 255) (v : Byte) : ShapeOk (s.setCw i v) :=
  h.poke (.inl ⟨i, hi, rfl⟩)

theorem ShapeOk.setCell {s : State} (h : ShapeOk s) {y x : Nat} (hy : y < s.cfg.gridMax) (hx : x < s.cfg.gridMax)
    (v : BitVec 2) : ShapeOk (s.setCell y x v) :=
  h.poke (.inr ⟨y, x, hy, hx, rfl, by rw [BitVec.toNat_setWidth_of_le (by decide)]; exact v.isLt⟩)

theorem ShapeOk.setBuffer {s : State} (h : ShapeOk s) {i : Nat} {bs : List Byte} (hfits : i + bs.length ≤ 255) :
    ShapeOk (s.setBuffer i bs) := by
  induction bs generalizing s i with
  | nil => exact h
  | cons b bs ih =>
    rw [List.length_cons] at hfits
    exact ih (h.setCw (by omega) b) (by omega)

theorem ShapeOk.done {s : State} (h : ShapeOk s) (code : Code) : ShapeOk (s.done code) :=
  h.congr rfl rfl rfl rfl rfl rfl

theorem ShapeOk.storeAt {s : State} (h : ShapeOk s) {l : Loc} (hl : l.inMap s.cfg) (v : Word) :
    ShapeOk (s.storeAt l v) := by
  cases l with
  | cw i => exact (h.setCw hl (v.setWidth 8)).congr rfl rfl rfl rfl rfl rfl
  | cell y x => exact (h.setCell hl.1 hl.2 (v.setWidth 2)).congr rfl rfl rfl rfl rfl rfl
  | _ => exact h.congr rfl rfl rfl rfl rfl rfl

/-- The state of a hardware reset has the shape. -/
theorem shapeOk_resetOf (c : Config) : ShapeOk (State.resetOf c) where
  syn_length := List.length_replicate
  lambda_length := List.length_replicate
  errloc_length := List.length_replicate
  errval_length := List.length_replicate
  mem_wf := Memory.wf_nil
  mem_cells := nofun

theorem ShapeOk.softReset {s : State} (h : ShapeOk s) : ShapeOk s.softReset where
  syn_length := List.length_replicate
  lambda_length := List.length_replicate
  errloc_length := List.length_replicate
  errval_length := List.length_replicate
  mem_wf := h.mem_wf
  mem_cells := h.mem_cells

/-! ### The Reed-Solomon stages -/

/-- Every turn of the loop of `RS_KES` keeps the sizes of `C` and `B`, also for more turns than `NSYM_MAX`. -/
theorem solveKey_lengths (c : Config) (syn : List Byte) (nsym : Nat) :
    (solveKey c syn nsym).conn.length = c.nsymMax + 1 ∧ (solveKey c syn nsym).prev.length = c.nsymMax + 1 := by
  induction nsym with
  | zero => simp [solveKey_zero, keyStart]
  | succ n ih =>
    rw [solveKey_succ]
    generalize solveKey c syn n = k at ih
    obtain ⟨hconn, hprev⟩ := ih
    have hlength : k.prev.length = k.conn.length := hprev.trans hconn.symm
    by_cases hd : discrepancy c.primPoly syn k.conn k.len n = 0
    · rw [keyTurn_keep hd]
      exact ⟨hconn, hprev⟩
    obtain hlong | hshort := Nat.lt_or_ge n (2 * k.len)
    · rw [keyTurn_correct rfl hd hlong]
      exact ⟨(shiftAdd_length _ _ hlength _).trans hconn, hprev⟩
    · rw [keyTurn_lengthen rfl hd hshort]
      exact ⟨(shiftAdd_length _ _ hlength _).trans hconn, hconn⟩

/-- What the chain of two stages keeps. -/
theorem andThen_keeps {P : State → Prop} {r : State × Code} {stage : State → State × Code} (hr : P r.1)
    (hstage : ∀ s, P s → P (stage s).1) : P (andThen r stage).1 := by
  by_cases h : r.2 = .ok
  · rw [andThen_ok h]
    exact hstage r.1 hr
  · rw [andThen_stop h]
    exact hr

/-- What every stage keeps is kept by `RS_DEC` (`41_rs_commands.md` R154). -/
theorem performDec_keeps {P : State → Prop} (hsyn : ∀ s, P s → P (performSyn s).1)
    (hkes : ∀ s, P s → P (performKes s).1) (hchn : ∀ s, P s → P (performChn s).1)
    (hfny : ∀ s, P s → P (performFny s).1) (hapl : ∀ s, P s → P (performApl s).1) {s : State} (h : P s) :
    P (performDec s).1 :=
  andThen_keeps (andThen_keeps (andThen_keeps (andThen_keeps (hsyn s h) hkes) hchn) hfny) hapl

theorem performSyn_shapeOk (s : State) (h : ShapeOk s) : ShapeOk (performSyn s).1 := by
  obtain ⟨hconfig, heq⟩ | ⟨-, heq⟩ := performSyn_cases s <;> rw [heq]
  · obtain ⟨-, -, hnsym⟩ := (cfgRsOk_iff s).mp hconfig
    refine h.congr rfl ?_ rfl rfl rfl rfl
    simp [h.syn_length, hnsym]
  · exact h

theorem performKes_shapeOk (s : State) (h : ShapeOk s) : ShapeOk (performKes s).1 := by
  have hlength : (solveKey s.cfg s.syn s.nsym).conn.length = s.lambda.length :=
    (solveKey_lengths s.cfg s.syn s.nsym).1.trans h.lambda_length.symm
  obtain ⟨-, heq⟩ | ⟨-, -, heq⟩ | ⟨-, -, heq⟩ := performKes_cases s <;> rw [heq]
  · exact h
  · exact h.congr rfl rfl hlength rfl rfl rfl
  · exact h.congr rfl rfl hlength rfl rfl rfl

theorem performChn_shapeOk (s : State) (h : ShapeOk s) : ShapeOk (performChn s).1 := by
  have hlength : ∀ l, (padded s.cfg.tMax l).length = s.errloc.length := fun l =>
    (padded_length _ l).trans h.errloc_length.symm
  obtain ⟨-, heq⟩ | ⟨-, -, heq⟩ | ⟨-, -, heq⟩ := performChn_cases s <;> rw [heq]
  · exact h
  · exact h.congr rfl rfl rfl (hlength _) rfl rfl
  · exact h.congr rfl rfl rfl (hlength _) rfl rfl

theorem performFny_shapeOk (s : State) (h : ShapeOk s) : ShapeOk (performFny s).1 := by
  by_cases hstage : s.status.stage = .chn
  · rw [performFny_inOrder hstage]
    exact h.congr rfl rfl rfl rfl (by simp [withValues, h.errval_length]) rfl
  · rw [performFny_outOfOrder hstage]
    exact h

theorem performApl_shapeOk (s : State) (h : ShapeOk s) : ShapeOk (performApl s).1 := by
  have hn : s.n < 256 := s.rsN.isLt
  obtain ⟨-, heq⟩ | ⟨-, -, heq⟩ | ⟨-, -, heq⟩ := performApl_cases s <;> rw [heq]
  · exact h
  · exact h
  · exact (h.setBuffer (bs := s.candidate) (by rw [candidate_length]; omega)).congr rfl rfl rfl rfl rfl rfl

/-! ### The frame filler -/

theorem ShapeOk.takeBits {s : State} (h : ShapeOk s) (temp : Byte) (k : Nat) : ShapeOk (s.takeBits temp k).1 := by
  rw [takeBits_frame]
  exact h.congr rfl rfl rfl rfl rfl rfl

theorem ShapeOk.fillBytes {s : State} (h : ShapeOk s) {i k : Nat} (hfits : i + k ≤ 255) :
    ShapeOk (s.fillBytes i k).1 := by
  induction k generalizing s i with
  | zero => exact h
  | succ k ih =>
    have htaken := h.takeBits 0 8
    match htake : s.takeBits 0 8 with
    | (t, some b) =>
      rw [htake] at htaken
      rw [fillBytes_found htake]
      exact ih (ShapeOk.setCw htaken (by omega) b) (by omega)
    | (t, none) =>
      rw [htake] at htaken
      rwa [fillBytes_exhausted htake]

theorem exec_shapeOk (i : Instr) (s t : State) (hexec : exec i s = .next t) (h : ShapeOk s) : ShapeOk t := by
  cases i with
  | nop => cases hexec; exact h.done _
  | srst => cases hexec; exact h.softReset.done _
  | rsSyn => cases hexec; exact (performSyn_shapeOk s h).done _
  | rsKes => cases hexec; exact (performKes_shapeOk s h).done _
  | rsChn => cases hexec; exact (performChn_shapeOk s h).done _
  | rsFny => cases hexec; exact (performFny_shapeOk s h).done _
  | rsApl => cases hexec; exact (performApl_shapeOk s h).done _
  | rsDec =>
    cases hexec
    exact (performDec_keeps performSyn_shapeOk performKes_shapeOk performChn_shapeOk performFny_shapeOk
      performApl_shapeOk h).done _
  | ffStart =>
    obtain ⟨-, heq⟩ | ⟨-, heq⟩ := exec_ffStart_cases s <;> cases heq.symm.trans hexec
    · exact h.congr rfl rfl rfl rfl rfl rfl
    · exact h.done _
  | ffGet n =>
    obtain ⟨code, heq⟩ | ⟨-, heq⟩ := exec_ffGet_cases n s <;> cases heq.symm.trans hexec
    · exact h.done _
    · rw [finishGet_frame]
      exact (h.takeBits 0 n.toNat).congr rfl rfl rfl rfl rfl rfl
  | ffFill =>
    obtain ⟨-, heq⟩ | heq := exec_ffFill_cases s <;> cases heq.symm.trans hexec
    · have hn : s.n < 256 := s.rsN.isLt
      have hstart : ShapeOk s.fillStart := h.congr rfl rfl rfl rfl rfl rfl
      rw [finishFill_frame]
      exact (hstart.fillBytes (i := 0) (k := s.n) (by omega)).congr rfl rfl rfl rfl rfl rfl
    · exact h.done _

end Sys2Proof.Machine

namespace Sys2Proof.Proofs

open Sys2Proof.Machine Sys2Proof.Claims

/-- Settles O50: the shape does not depend on the port, and stores, commands and resets keep it. -/
theorem stepKeepsShape : Obligations.StepKeepsShape := fun _ _ h hstep =>
  step_keeps (fun _ _ _ h => h.congr rfl rfl rfl rfl rfl rfl) (fun _ code h => h.done code)
    (fun _ _ v hl h => h.storeAt hl v) exec_shapeOk
    (fun s _ => (shapeOk_resetOf s.cfg).congr rfl rfl rfl rfl rfl rfl) h hstep

end Sys2Proof.Proofs
end

section
/-! PROOFS. What `STAGE` promises of the result registers (`70_reset_and_hazards.md` R268, `10_state.md` R46): each
stage makes the promise of its own `STAGE` and keeps those of the stages before it, and whatever else changes an operand
or the buffer takes `STAGE` back to `NONE`. The obligation O51. -/

namespace Sys2Proof.Machine

open Sys2Proof.Claims

/-! ### What the promise depends on -/

theorem PipelineOk.congr {s t : State} (h : PipelineOk s) (hcfg : t.cfg = s.cfg)
    (hstage : t.status.stage = s.status.stage) (hszero : t.status.szero = s.status.szero) (hn : t.rsN = s.rsN)
    (hnsym : t.rsNsym = s.rsNsym) (hresults : keepsRsResults s t) (hbuffer : t.buffer = s.buffer) : PipelineOk t := by
  obtain ⟨hsyn, hlambda, hrsL, herrloc, herrcnt, herrval⟩ := hresults
  have hnNat : t.n = s.n := congrArg BitVec.toNat hn
  have hnsymNat : t.nsym = s.nsym := congrArg BitVec.toNat hnsym
  have hconfig : t.cfgRsOk = s.cfgRsOk := by simp only [State.cfgRsOk, hnNat, hnsymNat, hcfg]
  have hsynAt : t.synAt = s.synAt := funext fun j => congrArg (fun l : List Byte => l.getD j 0) hsyn
  have herrlocAt : t.errlocAt = s.errlocAt := funext fun k => congrArg (fun l : List Byte => (l.getD k 0).toNat) herrloc
  have herrvalAt : t.errvalAt = s.errvalAt := funext fun k => congrArg (fun l : List Byte => l.getD k 0) herrval
  exact
    { szero_none := by rw [hstage, hszero]; exact h.szero_none
      config := by rw [hstage, hconfig]; exact h.config
      syn_current := by rw [hstage, hnsymNat, hsynAt, hcfg, hbuffer]; exact h.syn_current
      syn_tail := by rw [hstage, hnsymNat, hsynAt]; exact h.syn_tail
      szero_iff := by rw [hstage, hszero, hnsymNat, hsynAt]; exact h.szero_iff
      locator := by rw [hstage, hlambda, hcfg, hsyn, hnsymNat, hrsL]; exact h.locator
      positions := by rw [hstage, herrcnt, hrsL, hcfg, hlambda, hnNat, herrlocAt]; exact h.positions
      values := by rw [hstage, herrcnt, herrvalAt, hcfg, hsyn, hlambda, hnsymNat, hnNat, herrlocAt]; exact h.values
      codeword := by rw [hstage, hcfg, hbuffer, hnsymNat]; exact h.codeword }

theorem PipelineOk.done {s : State} (h : PipelineOk s) (code : Code) : PipelineOk (s.done code) :=
  h.congr rfl rfl rfl rfl rfl ⟨rfl, rfl, rfl, rfl, rfl, rfl⟩ rfl

/-- `NONE` promises that `SZERO` is 0 and nothing else. -/
theorem pipelineOk_of_none {s : State} (hstage : s.status.stage = .none) (hszero : s.status.szero = false) :
    PipelineOk s where
  szero_none _ := hszero
  config h := absurd hstage h
  syn_current h := absurd hstage h
  syn_tail h := absurd hstage h
  szero_iff h := absurd hstage h
  locator h := by rw [hstage] at h; cases h
  positions h := by rw [hstage] at h; cases h
  values h := by rw [hstage] at h; cases h
  codeword h := by rw [hstage] at h; cases h

/-! ### Stores -/

theorem buffer_setCell (s : State) (y x : Nat) (v : BitVec 2) : (s.setCell y x v).buffer = s.buffer := by
  have hn : s.n < 256 := s.rsN.isLt
  exact List.map_congr_left fun i hi => State.cw_setCell s ((List.mem_range.mp hi).trans hn) y x v

/-- A store of an operand or of a codeword takes `STAGE` back (R46 (a)); no other store touches what `STAGE` speaks
of. -/
theorem PipelineOk.storeAt {s : State} (h : PipelineOk s) (l : Loc) (v : Word) : PipelineOk (s.storeAt l v) := by
  cases l with
  | rsN | rsNsym | cw i => exact pipelineOk_of_none rfl rfl
  | ffSize => exact h.congr rfl rfl rfl rfl rfl ⟨rfl, rfl, rfl, rfl, rfl, rfl⟩ rfl
  | cell y x =>
    exact h.congr rfl rfl rfl rfl rfl ⟨rfl, rfl, rfl, rfl, rfl, rfl⟩ (buffer_setCell s y x (v.setWidth 2))
  | _ => exact h

/-! ### The stages -/

/-- `SYN` promises the syndromes (`41_rs_commands.md` R143). -/
theorem afterSyn_pipelineOk {s : State} (hconfig : s.cfgRsOk = true) : PipelineOk (afterSyn s) where
  szero_none := nofun
  config _ := hconfig
  syn_current _ _ _ hj := afterSyn_syn hj
  syn_tail _ _ hj := syndromes_append_getD_tail s.cfg s.buffer hj _
  szero_iff _ := by
    refine (isCodeword_iff s.cfg s.buffer s.nsym).trans (forall₂_congr fun j hj => ?_)
    exact Eq.congr_left (afterSyn_syn hj).symm
  locator := nofun
  positions := nofun
  values := nofun
  codeword := nofun

theorem performSyn_pipelineOk (s : State) (h : PipelineOk s) : PipelineOk (performSyn s).1 := by
  obtain ⟨hconfig, -⟩ | ⟨-, heq⟩ := performSyn_cases s
  · rw [performSyn_passes hconfig]
    exact afterSyn_pipelineOk hconfig
  · rw [heq]
    exact h

/-- Half of `RS_NSYM` fits a byte. -/
theorem tOf_nsym_lt (s : State) : tOf s.nsym < 256 := Nat.lt_of_le_of_lt (Nat.div_le_self ..) s.rsNsym.isLt

/-- Beyond capacity the locator is written, but `STAGE` does not advance. -/
theorem withLocator_pipelineOk {s : State} (h : PipelineOk s) (hstage : s.status.stage = .syn) :
    PipelineOk (withLocator s) where
  szero_none := h.szero_none
  config := h.config
  syn_current := h.syn_current
  syn_tail := h.syn_tail
  szero_iff := h.szero_iff
  locator hl := by rw [show (withLocator s).status.stage = .syn from hstage] at hl; cases hl
  positions hl := by rw [show (withLocator s).status.stage = .syn from hstage] at hl; cases hl
  values hl := by rw [show (withLocator s).status.stage = .syn from hstage] at hl; cases hl
  codeword hl := by rw [show (withLocator s).status.stage = .syn from hstage] at hl; cases hl

/-- `KES` promises the solver's locator, within capacity (`41_rs_commands.md` R145). -/
theorem withLocator_setStage_pipelineOk {s : State} (h : PipelineOk s) (hstage : s.status.stage = .syn)
    (hlen : (solveKey s.cfg s.syn s.nsym).len ≤ tOf s.nsym) : PipelineOk ((withLocator s).setStage .kes) := by
  have hnone : s.status.stage ≠ .none := by rw [hstage]; decide
  have hapl : s.status.stage ≠ .apl := by rw [hstage]; decide
  have hrsL : ((withLocator s).setStage .kes).rsL.toNat = (solveKey s.cfg s.syn s.nsym).len := by
    change (BitVec.ofNat 8 _).toNat = _
    rw [BitVec.toNat_ofNat, Nat.mod_eq_of_lt (hlen.trans_lt (tOf_nsym_lt s))]
  exact
    { szero_none := nofun
      config := fun _ => h.config hnone
      syn_current := fun _ _ => h.syn_current hnone hapl
      syn_tail := fun _ => h.syn_tail hnone
      szero_iff := fun _ => h.szero_iff hnone
      locator := fun _ => ⟨rfl, hrsL, hrsL.trans_le hlen⟩
      positions := nofun
      values := nofun
      codeword := nofun }

theorem performKes_pipelineOk (s : State) (h : PipelineOk s) : PipelineOk (performKes s).1 := by
  obtain ⟨hstage, -⟩ | ⟨hstage, hlen, -⟩ | ⟨hstage, hlen, -⟩ := performKes_cases s
  · rw [performKes_outOfOrder hstage]
    exact h
  · rw [performKes_beyond hstage hlen]
    exact withLocator_pipelineOk h hstage
  · rw [performKes_within hstage hlen]
    exact withLocator_setStage_pipelineOk h hstage hlen

/-- Where the root positions are too few or too many, they are written, but `STAGE` does not advance. -/
theorem withPositions_pipelineOk {s : State} (h : PipelineOk s) (hstage : s.status.stage = .kes) :
    PipelineOk (withPositions s) where
  szero_none := h.szero_none
  config := h.config
  syn_current := h.syn_current
  syn_tail := h.syn_tail
  szero_iff := h.szero_iff
  locator := h.locator
  positions hl := by rw [show (withPositions s).status.stage = .kes from hstage] at hl; cases hl
  values hl := by rw [show (withPositions s).status.stage = .kes from hstage] at hl; cases hl
  codeword hl := by rw [show (withPositions s).status.stage = .kes from hstage] at hl; cases hl

/-- `RS_CHN` writes as many of the root positions as `ERRLOC` has entries (`41_rs_commands.md` R148). -/
theorem withPositions_errlocAt (s : State) {k : Nat} (hk : k < s.cfg.tMax) :
    (withPositions s).errlocAt k = (rootPositions s.cfg s.lambda s.n).getD k 0 :=
  padded_toNat (fun _ hi => (lt_of_mem_rootPositions hi).trans s.rsN.isLt) hk

theorem withPositions_rsErrcnt (s : State) :
    (withPositions s).rsErrcnt.toNat = (rootPositions s.cfg s.lambda s.n).length := by
  have hn : s.n < 256 := s.rsN.isLt
  change (BitVec.ofNat 8 _).toNat = _
  rw [BitVec.toNat_ofNat, Nat.mod_eq_of_lt ((rootPositions_length_le ..).trans_lt hn)]

/-- The locators within capacity fit `ERRLOC`. -/
theorem rsL_le_tMax {s : State} (h : PipelineOk s) (hl : locatorStage s.status.stage = true) :
    s.rsL.toNat ≤ s.cfg.tMax := by
  have hnone : s.status.stage ≠ .none := by
    intro hnone
    rw [hnone] at hl
    cases hl
  obtain ⟨-, -, hnsym⟩ := (cfgRsOk_iff s).mp (h.config hnone)
  obtain ⟨-, -, hcapacity⟩ := h.locator hl
  exact hcapacity.trans (Nat.div_le_div_right hnsym)

/-- `CHN` promises the root positions, `RS_L` of them (`41_rs_commands.md` R148). -/
theorem withPositions_setStage_pipelineOk {s : State} (h : PipelineOk s) (hstage : s.status.stage = .kes)
    (hlen : (rootPositions s.cfg s.lambda s.n).length = s.rsL.toNat) :
    PipelineOk ((withPositions s).setStage .chn) := by
  have hnone : s.status.stage ≠ .none := by rw [hstage]; decide
  have hapl : s.status.stage ≠ .apl := by rw [hstage]; decide
  have hlocator : locatorStage s.status.stage = true := by rw [hstage]; rfl
  have hcount := withPositions_rsErrcnt s
  have hfits : (withPositions s).rsErrcnt.toNat ≤ s.cfg.tMax :=
    (hcount.trans hlen).trans_le (rsL_le_tMax h hlocator)
  exact
    { szero_none := nofun
      config := fun _ => h.config hnone
      syn_current := fun _ _ => h.syn_current hnone hapl
      syn_tail := fun _ => h.syn_tail hnone
      szero_iff := fun _ => h.szero_iff hnone
      locator := fun _ => h.locator hlocator
      positions := fun _ => ⟨BitVec.eq_of_toNat_eq (hcount.trans hlen), hcount.symm,
        fun k hk => withPositions_errlocAt s (Nat.lt_of_lt_of_le hk hfits)⟩
      values := nofun
      codeword := nofun }

theorem performChn_pipelineOk (s : State) (h : PipelineOk s) : PipelineOk (performChn s).1 := by
  obtain ⟨hstage, -⟩ | ⟨hstage, hlen, -⟩ | ⟨hstage, hlen, -⟩ := performChn_cases s
  · rw [performChn_outOfOrder hstage]
    exact h
  · rw [performChn_mismatch hstage hlen]
    exact withPositions_pipelineOk h hstage
  · rw [performChn_match hstage hlen]
    exact withPositions_setStage_pipelineOk h hstage hlen

/-- `RS_FNY` writes as many values as `ERRVAL` has entries (`41_rs_commands.md` R150). -/
theorem withValues_errvalAt (s : State) {k : Nat} (hk : k < s.cfg.tMax) :
    (withValues s).errvalAt k = forneyValue s k := by
  change ((List.range s.cfg.tMax).map (forneyValue s)).getD k 0 = _
  rw [List.getD_eq_getElem _ 0 (by simpa using hk), List.getElem_map, List.getElem_range]

/-- `FNY` promises Forney's values (`41_rs_commands.md` R150). -/
theorem withValues_pipelineOk {s : State} (h : PipelineOk s) (hstage : s.status.stage = .chn) :
    PipelineOk ((withValues s).setStage .fny) := by
  have hnone : s.status.stage ≠ .none := by rw [hstage]; decide
  have hapl : s.status.stage ≠ .apl := by rw [hstage]; decide
  have hlocator : locatorStage s.status.stage = true := by rw [hstage]; rfl
  have hpositions := h.positions (by rw [hstage]; rfl)
  have hfits : s.rsErrcnt.toNat ≤ s.cfg.tMax := by
    rw [hpositions.1]
    exact rsL_le_tMax h hlocator
  exact
    { szero_none := nofun
      config := fun _ => h.config hnone
      syn_current := fun _ _ => h.syn_current hnone hapl
      syn_tail := fun _ => h.syn_tail hnone
      szero_iff := fun _ => h.szero_iff hnone
      locator := fun _ => h.locator hlocator
      positions := fun _ => hpositions
      values := fun _ k hk => (withValues_errvalAt s (Nat.lt_of_lt_of_le hk hfits)).trans (forneyValue_of_lt hk)
      codeword := nofun }

theorem performFny_pipelineOk (s : State) (h : PipelineOk s) : PipelineOk (performFny s).1 := by
  obtain ⟨hstage, -⟩ | ⟨hstage, -⟩ := performFny_cases s
  · rw [performFny_outOfOrder hstage]
    exact h
  · rw [performFny_inOrder hstage]
    exact withValues_pipelineOk h hstage

/-- A commit of as many bytes as the buffer has leaves them in the buffer. -/
theorem buffer_setBuffer (s : State) {bs : List Byte} (hlength : bs.length = s.n) : (s.setBuffer 0 bs).buffer = bs := by
  have hn : (s.setBuffer 0 bs).n = s.n := by rw [State.setBuffer_eq]; rfl
  refine ext_getD (by rw [buffer_length, hn, hlength]) fun i hi => ?_
  rw [buffer_length] at hi
  rw [buffer_getD _ hi, cw_setBuffer_zero s bs (by omega)]

/-- `APL` promises that the committed buffer is a codeword (`41_rs_commands.md` R152). -/
theorem commit_pipelineOk {s : State} (h : PipelineOk s) (hstage : s.status.stage = .fny)
    (hgood : isCodeword s.cfg s.candidate s.nsym = true) :
    PipelineOk ((s.setBuffer 0 s.candidate).setStage .apl) := by
  have hnone : s.status.stage ≠ .none := by rw [hstage]; decide
  have hbuffer := buffer_setBuffer s (candidate_length s)
  rw [State.setBuffer_eq] at hbuffer ⊢
  exact
    { szero_none := nofun
      config := fun _ => h.config hnone
      syn_current := fun _ hne => absurd rfl hne
      syn_tail := fun _ => h.syn_tail hnone
      szero_iff := fun _ => h.szero_iff hnone
      locator := fun _ => h.locator (by rw [hstage]; rfl)
      positions := fun _ => h.positions (by rw [hstage]; rfl)
      values := fun _ => h.values (by rw [hstage]; rfl)
      codeword := fun _ => (congrArg (fun w => isCodeword s.cfg w s.nsym) hbuffer).trans hgood }

theorem performApl_pipelineOk (s : State) (h : PipelineOk s) : PipelineOk (performApl s).1 := by
  obtain ⟨hstage, -⟩ | ⟨hstage, hbad, -⟩ | ⟨hstage, hgood, -⟩ := performApl_cases s
  · rw [performApl_outOfOrder hstage]
    exact h
  · rw [performApl_refuses hstage hbad]
    exact h
  · rw [performApl_commits hstage hgood]
    exact commit_pipelineOk h hstage hgood

/-! ### Every command -/

/-- `FF_GET` touches nothing that `STAGE` speaks of. -/
theorem PipelineOk.takeBits {s : State} (h : PipelineOk s) (temp : Byte) (k : Nat) :
    PipelineOk (s.takeBits temp k).1 := by
  rw [takeBits_frame]
  exact h.congr rfl rfl rfl rfl rfl ⟨rfl, rfl, rfl, rfl, rfl, rfl⟩ rfl

theorem finishGet_pipelineOk {r : State × Option Byte} (h : PipelineOk r.1) : PipelineOk (finishGet r) := by
  obtain ⟨s, _ | temp⟩ := r
  · exact h.congr rfl rfl rfl rfl rfl ⟨rfl, rfl, rfl, rfl, rfl, rfl⟩ rfl
  · exact h.congr rfl rfl rfl rfl rfl ⟨rfl, rfl, rfl, rfl, rfl, rfl⟩ rfl

theorem exec_pipelineOk (i : Instr) (s t : State) (hexec : exec i s = .next t) (h : PipelineOk s) : PipelineOk t := by
  cases i with
  | nop => cases hexec; exact h.done _
  | srst => cases hexec; exact pipelineOk_of_none rfl rfl
  | rsSyn => cases hexec; exact (performSyn_pipelineOk s h).done _
  | rsKes => cases hexec; exact (performKes_pipelineOk s h).done _
  | rsChn => cases hexec; exact (performChn_pipelineOk s h).done _
  | rsFny => cases hexec; exact (performFny_pipelineOk s h).done _
  | rsApl => cases hexec; exact (performApl_pipelineOk s h).done _
  | rsDec =>
    cases hexec
    exact (performDec_keeps performSyn_pipelineOk performKes_pipelineOk performChn_pipelineOk performFny_pipelineOk
      performApl_pipelineOk h).done _
  | ffStart =>
    obtain ⟨-, heq⟩ | ⟨-, heq⟩ := exec_ffStart_cases s <;> cases heq.symm.trans hexec
    · exact h.congr rfl rfl rfl rfl rfl ⟨rfl, rfl, rfl, rfl, rfl, rfl⟩ rfl
    · exact h.done _
  | ffGet n =>
    obtain ⟨code, heq⟩ | ⟨-, heq⟩ := exec_ffGet_cases n s <;> cases heq.symm.trans hexec
    · exact h.done _
    · exact finishGet_pipelineOk (h.takeBits 0 n.toNat)
  | ffFill =>
    obtain ⟨-, heq⟩ | heq := exec_ffFill_cases s <;> cases heq.symm.trans hexec
    · obtain ⟨hstage, hszero, -⟩ := finishFill_fillBytes_keeps s.fillStart s.n
      exact pipelineOk_of_none hstage hszero
    · exact h.done _

end Sys2Proof.Machine

namespace Sys2Proof.Proofs

open Sys2Proof.Machine Sys2Proof.Claims

/-- Settles O51: the promise does not depend on the port, and stores, commands and resets keep it. -/
theorem stepKeepsPipeline : Obligations.StepKeepsPipeline := fun _ _ h hstep =>
  step_keeps (fun _ _ _ h => h.congr rfl rfl rfl rfl rfl ⟨rfl, rfl, rfl, rfl, rfl, rfl⟩ rfl)
    (fun _ code h => h.done code) (fun _ l v _ h => h.storeAt l v) exec_pipelineOk
    (fun _ _ => pipelineOk_of_none rfl rfl) h hstep

end Sys2Proof.Proofs
end

section
/-! PROOFS. What `FF_STATE` promises of the cursor (`10_state.md` R33, R34, R36, R47): the cells passed and the cells
ahead are together all data-bearing cells of the path, whatever is taken, sought or filled. The obligations O52 and
O53. -/

namespace Sys2Proof.Machine

open Sys2Proof.Claims

/-! ### A cursor that is not idle -/

/-- The promise of a cursor that is not idle, with the cells passed counted by the cells still ahead. Tied to `CursorOk`
by `CursorOk.on` and `CursorOn.cursorOk`. -/
structure CursorOn (s : State) : Prop where
  config : ffConfig s
  onPath : s.onPath
  count : s.ffCnt.toNat + s.ahead.length = (dataFrom s 0).length
  valid : s.ffLast.valid = true ↔ 0 < s.ffCnt.toNat

/-- The data-bearing cells before a path index and those from it on are all of them. -/
theorem dataBefore_add_length {s : State} {idx : Nat} (h : idx ≤ idxEnd s.side) :
    s.dataBefore idx + (dataFrom s idx).length = (dataFrom s 0).length := by
  have hsplit : List.range (idxEnd s.side) = List.range idx ++ List.range' idx (idxEnd s.side - idx) := by
    rw [List.range_eq_range', List.range_eq_range']
    simpa [Nat.add_sub_cancel' h] using (List.range'_append_1 (s := 0) (m := idx) (n := idxEnd s.side - idx)).symm
  have hbefore : (List.range idx).countP (fun k => decide (idx ≤ k) && s.dataBearing k) = 0 :=
    List.countP_eq_zero.mpr fun k hk => by
      have := List.mem_range.mp hk
      simp [this]
  have hafter : (List.range' idx (idxEnd s.side - idx)).countP (fun k => decide (idx ≤ k) && s.dataBearing k) =
      (List.range' idx (idxEnd s.side - idx)).countP s.dataBearing :=
    List.countP_congr fun k hk => by simp [(List.mem_range'_1.mp hk).1]
  simp only [dataFrom, ← List.countP_eq_length_filter, hsplit, List.countP_append, hbefore, hafter, State.dataBefore,
    Nat.zero_le, decide_true, Bool.true_and, Nat.zero_add]

theorem CursorOk.on {s : State} (h : CursorOk s) (hactive : s.status.ffState ≠ .idle) : CursorOn s where
  config := (ffCfgOk_iff s).mp (h.config hactive)
  onPath := h.idx_le hactive
  count := by
    rw [h.cnt hactive]
    exact dataBefore_add_length (h.idx_le hactive)
  valid := h.valid hactive

theorem CursorOn.cursorOk {s : State} (h : CursorOn s)
    (hended : s.status.ffState = .ended → s.ffIdx.toNat = idxEnd s.side) : CursorOk s where
  config _ := (ffCfgOk_iff s).mpr h.config
  idx_le _ := h.onPath
  cnt _ := Nat.add_right_cancel (h.count.trans (dataBefore_add_length h.onPath).symm)
  valid _ := h.valid
  ended := hended

theorem cursorOk_of_idle {s : State} (hidle : s.status.ffState = .idle) : CursorOk s where
  config h := absurd hidle h
  idx_le h := absurd hidle h
  cnt h := absurd hidle h
  valid h := absurd hidle h
  ended h := by rw [hidle] at h; cases h

/-! ### What the promise depends on -/

theorem dataFrom_congr {s t : State} (hsize : t.ffSize = s.ffSize) (hcells : ∀ y x, t.cell y x = s.cell y x)
    (idx : Nat) : dataFrom t idx = dataFrom s idx := by
  have hside : t.side = s.side := congrArg BitVec.toNat hsize
  simp only [dataFrom, State.dataBearing, State.func, hcells, hside]

theorem CursorOn.congr {s t : State} (h : CursorOn s) (hcfg : t.cfg = s.cfg) (hsize : t.ffSize = s.ffSize)
    (hidx : t.ffIdx = s.ffIdx) (hcnt : t.ffCnt = s.ffCnt) (hlast : t.ffLast = s.ffLast)
    (hcells : ∀ y x, t.cell y x = s.cell y x) : CursorOn t := by
  have hside : t.side = s.side := congrArg BitVec.toNat hsize
  exact
    { config := by rw [ffConfig, hside, hcfg]; exact h.config
      onPath := by rw [State.onPath, hidx, hside]; exact h.onPath
      count := by
        rw [hcnt, State.ahead, hidx, dataFrom_congr hsize hcells, dataFrom_congr hsize hcells]
        exact h.count
      valid := by rw [hlast, hcnt]; exact h.valid }

theorem CursorOk.congr {s t : State} (h : CursorOk s) (hcfg : t.cfg = s.cfg) (hsize : t.ffSize = s.ffSize)
    (hcursor : keepsCursor s t) (hcells : ∀ y x, t.cell y x = s.cell y x) : CursorOk t := by
  obtain ⟨hidx, hcnt, -, hlast, hff⟩ := hcursor
  have hside : t.side = s.side := congrArg BitVec.toNat hsize
  by_cases hidle : s.status.ffState = .idle
  · exact cursorOk_of_idle (hff.trans hidle)
  · refine ((h.on hidle).congr hcfg hsize hidx hcnt hlast hcells).cursorOk fun hended => ?_
    rw [hidx, hside, h.ended (hff.symm.trans hended)]

theorem CursorOk.done {s : State} (h : CursorOk s) (code : Code) : CursorOk (s.done code) :=
  h.congr rfl rfl ⟨rfl, rfl, rfl, rfl, rfl⟩ fun _ _ => rfl

/-- A store of the side or of a cell takes the cursor back to `IDLE` (R47 (a)); no other store touches what the cursor
stands on. -/
theorem CursorOk.storeAt {s : State} (h : CursorOk s) {l : Loc} (hl : l.inMap s.cfg) (v : Word) :
    CursorOk (s.storeAt l v) := by
  cases l with
  | ffSize | cell y x => exact cursorOk_of_idle rfl
  | cw i =>
    have hi : i < 255 := hl
    exact h.congr rfl rfl ⟨rfl, rfl, rfl, rfl, rfl⟩ fun y x => State.cell_setCw s (by omega) (v.setWidth 8) y x
  | rsN | rsNsym => exact h.congr rfl rfl ⟨rfl, rfl, rfl, rfl, rfl⟩ fun _ _ => rfl
  | _ => exact h

/-! ### The cursor's moves -/

/-- The cursor may skip candidates that are not data-bearing. -/
theorem CursorOn.moveTo {s : State} (h : CursorOn s) {idx : Nat} (hidx : idx ≤ idxEnd s.side)
    (hahead : dataFrom s idx = s.ahead) : CursorOn (s.moveTo idx) := by
  have hmoved : (s.moveTo idx).ffIdx.toNat = idx := toNat_ffIdx_moveTo s (hidx.trans_lt (idxEnd_side_lt s))
  have hsame : (s.moveTo idx).ahead = s.ahead := (congrArg (dataFrom s) hmoved).trans hahead
  exact
    { config := h.config
      onPath := hmoved.trans_le hidx
      count := (congrArg (fun cells : List Nat => s.ffCnt.toNat + cells.length) hsame).trans h.count
      valid := h.valid }

/-- `seek` skips candidates that are not data-bearing. -/
theorem CursorOn.seek {s : State} (h : CursorOn s) : CursorOn s.seek.1 := by
  obtain ⟨hge, hle, hskip, -⟩ := seekFrom_spec s (idxEnd s.side - s.ffIdx.toNat) s.ffIdx.toNat
  rw [Nat.add_sub_cancel' h.onPath] at hle
  exact h.moveTo hle (dataFrom_skip hge hskip).symm

/-- A search that finds nothing ends at the end of the path. -/
theorem seek_exhausted_ffIdx {s : State} (hpath : s.onPath) (hnone : s.seek.2 = false) :
    s.seek.1.ffIdx.toNat = idxEnd s.seek.1.side := by
  obtain ⟨-, hseek⟩ | ⟨j, -, -, hseek⟩ := seek_cases hpath <;> rw [hseek] at hnone ⊢
  · exact toNat_ffIdx_moveTo s (idxEnd_side_lt s)
  · cases hnone

/-- Each cell taken is one more passed and one fewer ahead. -/
theorem CursorOn.takeAll {s : State} (h : CursorOn s) (k : Nat) : CursorOn (s.takeAll (s.ahead.take k)) := by
  obtain ⟨hahead, hpath⟩ := takeAll_ahead h.onPath k
  have hcount := h.count
  have htotal := (dataFrom_length_le s 0).trans_lt (idxEnd_side_lt s)
  have htaken : (s.ahead.take k).length + (s.ahead.drop k).length = s.ahead.length := by
    rw [← List.length_append, List.take_append_drop]
  have hcnt : (s.takeAll (s.ahead.take k)).ffCnt.toNat = s.ffCnt.toNat + (s.ahead.take k).length := by
    rw [takeAll_ffCnt, BitVec.toNat_add, BitVec.toNat_ofNat]
    omega
  have hall : dataFrom (s.takeAll (s.ahead.take k)) 0 = dataFrom s 0 := by
    rw [takeAll_frame]
    rfl
  refine ⟨?config, hpath, by rw [hcnt, hahead, hall]; omega, ?valid⟩
  case config =>
    rw [takeAll_frame]
    exact h.config
  case valid =>
    rw [hcnt, takeAll_ffLast]
    split_ifs with hnil
    · rw [hnil]
      exact h.valid
    · exact iff_of_true rfl (Nat.add_pos_right _ (List.length_pos_iff.mpr hnil))

/-- All cells taken, and then the end of the path. -/
theorem CursorOn.exhaust {s : State} (h : CursorOn s) : CursorOn ((s.takeAll s.ahead).moveTo (idxEnd s.side)) := by
  have hall := h.takeAll s.ahead.length
  obtain ⟨hahead, -⟩ := takeAll_ahead h.onPath s.ahead.length
  rw [List.take_length] at hall hahead
  rw [List.drop_length] at hahead
  have hside : (s.takeAll s.ahead).side = s.side := by rw [takeAll_frame]; rfl
  rw [← hside]
  exact hall.moveTo le_rfl ((dataFrom_idxEnd _).trans hahead.symm)

theorem CursorOn.takeBits {s : State} (h : CursorOn s) (temp : Byte) (k : Nat) : CursorOn (s.takeBits temp k).1 := by
  obtain ⟨-, htake⟩ | ⟨-, htake⟩ := takeBits_cases h.onPath temp k <;> rw [htake]
  · exact h.takeAll k
  · exact h.exhaust

/-- Bits that run out end at the end of the path, and a cursor that is there already stays there. -/
theorem takeBits_ffIdx_idxEnd {s : State} (hpath : s.onPath) (temp : Byte) (k : Nat)
    (hend : (s.takeBits temp k).2 = none ∨ s.ffIdx.toNat = idxEnd s.side) :
    (s.takeBits temp k).1.ffIdx.toNat = idxEnd s.side := by
  obtain ⟨-, htake⟩ | ⟨-, htake⟩ := takeBits_cases hpath temp k <;> rw [htake] at hend ⊢
  · obtain hnone | hidx := hend
    · cases hnone
    · have hnil : s.ahead = [] := by rw [State.ahead, hidx, dataFrom_idxEnd]
      rw [hnil, List.take_nil]
      exact hidx
  · exact toNat_ffIdx_moveTo _ (idxEnd_side_lt s)

/-! ### Commands -/

theorem CursorOn.fillBytes {s : State} (h : CursorOn s) {i k : Nat} (hfits : i + k ≤ 255) :
    CursorOn (s.fillBytes i k).1 := by
  induction k generalizing s i with
  | zero => exact h
  | succ k ih =>
    have htaken := h.takeBits 0 8
    match htake : s.takeBits 0 8 with
    | (t, some b) =>
      rw [htake] at htaken
      have hwritten : CursorOn (t.setCw i b) :=
        htaken.congr rfl rfl rfl rfl rfl fun y x => State.cell_setCw t (by omega) b y x
      rw [fillBytes_found htake]
      exact ih hwritten (by omega)
    | (t, none) =>
      rw [htake] at htaken
      rwa [fillBytes_exhausted htake]

theorem fillStart_cursorOn {s : State} (hconfig : ffConfig s) : CursorOn s.fillStart where
  config := hconfig
  onPath := fillStart_onPath s
  count := Nat.zero_add _
  valid := iff_of_false Bool.false_ne_true (lt_irrefl 0)

theorem startCursor_cursorOk {s : State} (hconfig : ffConfig s) : CursorOk s.startCursor :=
  ((fillStart_cursorOn hconfig).congr (t := s.startCursor) rfl rfl rfl rfl rfl fun _ _ => rfl).cursorOk nofun

theorem finishGet_cursorOk {s : State} (h : CursorOk s) (hactive : s.status.ffState ≠ .idle) (temp : Byte) (k : Nat) :
    CursorOk (finishGet (s.takeBits temp k)) := by
  have hon := h.on hactive
  have htaken := hon.takeBits temp k
  have hend := takeBits_ffIdx_idxEnd hon.onPath temp k
  have hside : (s.takeBits temp k).1.side = s.side := by rw [takeBits_frame]; rfl
  have hff : (s.takeBits temp k).1.status.ffState = s.status.ffState := by rw [takeBits_frame]
  rw [← hside] at hend
  match htake : s.takeBits temp k with
  | (t, some b) =>
    rw [htake] at htaken hend hff
    rw [finishGet_some]
    refine CursorOn.cursorOk (htaken.congr rfl rfl rfl rfl rfl fun _ _ => rfl) fun hended => hend (.inr ?_)
    rw [h.ended (hff.symm.trans hended), ← hside, htake]
  | (t, none) =>
    rw [htake] at htaken hend
    rw [finishGet_none]
    exact CursorOn.cursorOk (htaken.congr rfl rfl rfl rfl rfl fun _ _ => rfl) fun _ => hend (.inl rfl)

theorem takeAll_setBuffer_side (s : State) (bs : List Byte) (cells : List Nat) :
    ((s.setBuffer 0 bs).takeAll cells).side = s.side := by
  rw [takeAll_frame]
  exact setBuffer_side s 0 bs

theorem finishFill_cursorOk {s : State} (h : CursorOn s) (hff : s.status.ffState = .active) {k : Nat} (hk : k ≤ 255) :
    CursorOk (finishFill (s.fillBytes 0 k)) := by
  have hfilled : CursorOn (s.fillBytes 0 k).1 := h.fillBytes (by omega)
  obtain ⟨-, hfill⟩ | ⟨-, hfill⟩ := fillBytes_cases h.onPath (k := k) (by omega) <;> rw [hfill] at hfilled ⊢
  · cases hseek : (s.filled k).seek.2 with
    | false =>
      rw [finishFill_exact (Prod.ext rfl hseek)]
      exact CursorOn.cursorOk (hfilled.seek.congr rfl rfl rfl rfl rfl fun _ _ => rfl) fun _ =>
        seek_exhausted_ffIdx hfilled.onPath hseek
    | true =>
      have hactive : (s.filled k).status.ffState = .active := (congrArg Status.ffState (filled_status s k)).trans hff
      rw [finishFill_leftover (Prod.ext rfl hseek)]
      refine CursorOn.cursorOk (hfilled.seek.congr rfl rfl rfl rfl rfl fun _ _ => rfl) fun hended => ?_
      exact absurd (hactive.symm.trans hended) (by decide)
  · rw [finishFill_exhausted]
    exact CursorOn.cursorOk (hfilled.congr rfl rfl rfl rfl rfl fun _ _ => rfl) fun _ =>
      (toNat_ffIdx_moveTo s (idxEnd_side_lt s)).trans (congrArg idxEnd (takeAll_setBuffer_side s _ _).symm)

theorem exec_cursorOk (i : Instr) (s t : State) (hexec : exec i s = .next t) (h : CursorOk s) : CursorOk t := by
  cases i with
  | nop => cases hexec; exact h.done _
  | srst => cases hexec; exact cursorOk_of_idle rfl
  | rsSyn | rsKes | rsChn | rsFny | rsApl | rsDec =>
    obtain ⟨⟨-, -, hsize⟩, hcursor, ⟨hcfg, -⟩, -⟩ := exec_rs_frame (by simp [isRs]) hexec
    exact h.congr hcfg hsize hcursor (exec_cell hexec)
  | ffStart =>
    obtain ⟨hconfig, heq⟩ | ⟨-, heq⟩ := exec_ffStart_cases s <;> cases heq.symm.trans hexec
    · exact (startCursor_cursorOk hconfig).done _
    · exact h.done _
  | ffGet n =>
    obtain ⟨code, heq⟩ | ⟨hactive, heq⟩ := exec_ffGet_cases n s <;> cases heq.symm.trans hexec
    · exact h.done _
    · exact finishGet_cursorOk h hactive 0 n.toNat
  | ffFill =>
    obtain ⟨hconfig, heq⟩ | heq := exec_ffFill_cases s <;> cases heq.symm.trans hexec
    · exact finishFill_cursorOk (fillStart_cursorOn hconfig) rfl (Nat.le_of_lt_succ s.rsN.isLt)
    · exact h.done _

end Sys2Proof.Machine

namespace Sys2Proof.Proofs

open Sys2Proof.Machine Sys2Proof.Claims

/-- Settles O52: the promise does not depend on the port, and stores, commands and resets keep it. -/
theorem stepKeepsCursor : Obligations.StepKeepsCursor := fun _ _ h hstep =>
  step_keeps (fun _ _ _ h => h.congr rfl rfl ⟨rfl, rfl, rfl, rfl, rfl⟩ fun _ _ => rfl) (fun _ code h => h.done code)
    (fun _ _ v hl h => h.storeAt hl v) exec_cursorOk (fun _ _ => cursorOk_of_idle rfl) h hstep

/-- Settles O53: the arrays have their sizes, `STAGE` is `NONE`, and the cursor is idle. -/
theorem resetMeetsTheInvariants : Obligations.ResetMeetsTheInvariants := fun c =>
  ⟨shapeOk_resetOf c, pipelineOk_of_none rfl rfl, cursorOk_of_idle rfl⟩

end Sys2Proof.Proofs
end

section
/-! PROOFS. The generator, the inverse and Horner's rule (`40_gf256.md` R113, R114, R118): the obligations O23, O24 and
O26. -/

namespace Sys2Proof.Machine

open Sys2Proof.Claims

variable {poly : BitVec 9}

/-! ### The powers of the generator (R113) -/

/-- Exponents count modulo 255, for every polynomial. -/
theorem gfExp_add_255 (poly : BitVec 9) (e : Int) : gfExp poly (e + 255) = gfExp poly e := by
  rw [gfExp_eq, gfExp_eq, Int.add_emod_right]

/-- Below 255 `gf_exp` is the power. -/
theorem gfExp_natCast {n : Nat} (hn : n < 255) : gfExp poly (n : Int) = gfPow poly alpha n := by
  rw [gfExp_eq, show ((n : Int) % 255).toNat = n by omega]

/-! ### Horner's rule (R118) -/

/-- The first term of a sum apart. -/
theorem xorSum_succ' (k : Nat) (f : Nat → Byte) : xorSum (k + 1) f = xorSum k (fun i => f (i + 1)) ^^^ f 0 := by
  induction k with
  | zero => rfl
  | succ k ih =>
    rw [xorSum_succ, ih, xorSum_succ]
    ac_rfl

/-- Horner's rule sums the terms of the polynomial. -/
theorem polyEval_eq_xorSum (hp : poly.getLsbD 8 = true) (p : List Byte) (v : Byte) :
    polyEval poly p v = xorSum p.length fun i => gfMul poly (p.getD i 0) (gfPow poly v i) := by
  induction p with
  | nil => rfl
  | cons b p ih =>
    rw [polyEval_cons, ih, xorSum_gfMul hp, List.length_cons, xorSum_succ', List.getD_cons_zero, gfPow_zero,
      gfMul_one hp]
    congr 1
    refine xorSum_congr fun i _ => ?_
    rw [List.getD_cons_succ, gfPow_succ, gfMul_assoc hp]

/-- A polynomial of zeros is 0 everywhere. -/
theorem polyEval_replicate_zero (poly : BitVec 9) (k : Nat) (v : Byte) : polyEval poly (List.replicate k 0) v = 0 := by
  induction k with
  | zero => rfl
  | succ k ih =>
    rw [List.replicate_succ, polyEval_cons, ih, zero_gfMul]
    rfl

theorem polyEval_append_zeros (poly : BitVec 9) (p : List Byte) (k : Nat) (v : Byte) :
    polyEval poly (p ++ List.replicate k 0) v = polyEval poly p v := by
  induction p with
  | nil => exact polyEval_replicate_zero poly k v
  | cons b p ih => rw [List.cons_append, polyEval_cons, ih, polyEval_cons]

theorem polyEval_at_zero (poly : BitVec 9) (p : List Byte) : polyEval poly p 0 = p.getD 0 0 := by
  cases p with
  | nil => rfl
  | cons b p =>
    rw [polyEval_cons, gfMul_zero, List.getD_cons_zero]
    exact BitVec.zero_xor

end Sys2Proof.Machine

namespace Sys2Proof.Proofs

open Sys2Proof.Machine Sys2Proof.Claims

/-- Settles O23: the 255 powers of `alpha` are distinct and are all nonzero bytes, and exponents add. -/
theorem generatorPowersAreTheNonzeroElements : Obligations.GeneratorPowersAreTheNonzeroElements := by
  intro c
  have hlegal := c.primPoly_legal
  refine ⟨gfExp_add_255 c.primPoly, fun a ha => ?once, fun e => gfPow_alpha_ne_zero hlegal _, fun e => ?inverse⟩
  case once =>
    obtain ⟨n, hn, hpow⟩ := exists_gfPow_alpha hlegal ha
    refine ⟨n, hn, (gfExp_natCast hn).trans hpow, fun m hm hexp => ?_⟩
    rw [gfExp_natCast hm] at hexp
    exact gfPow_alpha_injective hlegal hm hn (hexp.trans hpow.symm)
  case inverse => rw [← gfExp_add hlegal, Int.add_right_neg, gfExp_zero]

/-- Settles O24: `gf_inv(0)` is a product with the factor 0, and a nonzero byte's 255th power is 1. -/
theorem inverseTimesElementIsOne : Obligations.InverseTimesElementIsOne := fun c =>
  ⟨gfMul_zero c.primPoly _, fun _ ha => gfMul_gfInv c.primPoly_legal ha⟩

/-- Settles O26: induction over the coefficients, lowest degree first. -/
theorem polyEvalIsTheSumOfItsTerms : Obligations.PolyEvalIsTheSumOfItsTerms := fun c p v =>
  ⟨polyEval_eq_xorSum (getLsbD_of_legal c.primPoly_legal) p v, fun k => polyEval_append_zeros c.primPoly p k v,
    polyEval_at_zero c.primPoly p⟩

end Sys2Proof.Proofs
end

section
/-! PROOFS. `RS_KES` and `RS_FNY` (`41_rs_commands.md` R145, R146, R150, R157): the length and the recurrence of the
solver's register, what the two commands write, and the obligations O30, O31, O32 and O34. -/

namespace Sys2Proof.Machine

open Polynomial Sys2Proof.Claims

/-! ### The solver (R145, R146) -/

/-- The register is never longer than the syndromes read, also for more turns than `NSYM_MAX` (R146 (b)). -/
theorem solveKey_len_le (c : Config) (syn : List Byte) (nsym : Nat) : (solveKey c syn nsym).len ≤ nsym := by
  induction nsym with
  | zero => exact le_refl 0
  | succ n ih =>
    rw [solveKey_succ]
    generalize solveKey c syn n = k at ih
    by_cases hd : discrepancy c.primPoly syn k.conn k.len n = 0
    · rw [keyTurn_keep hd]
      exact Nat.le_succ_of_le ih
    obtain hlong | hshort := Nat.lt_or_ge n (2 * k.len)
    · rw [keyTurn_correct rfl hd hlong]
      exact Nat.le_succ_of_le ih
    · rw [keyTurn_lengthen rfl hd hshort]
      exact Nat.sub_le ..

/-- What a field knows of the solver, for the bytes: constant term 1, no coefficient beyond the register, a nonzero
saved discrepancy, and no discrepancy from the register's length on (R146 (a), (c), (d), (f)). -/
theorem solveKey_spec (c : Config) (syn : List Byte) {nsym : Nat} (hnsym : nsym ≤ c.nsymMax) :
    (solveKey c syn nsym).conn.getD 0 0 = 1 ∧
    (∀ i, (solveKey c syn nsym).len < i → (solveKey c syn nsym).conn.getD i 0 = 0) ∧
    (solveKey c syn nsym).disc ≠ 0 ∧
    ∀ n, (solveKey c syn nsym).len ≤ n → n < nsym →
      discrepancy c.primPoly syn (solveKey c syn nsym).conn (solveKey c syn nsym).len n = 0 := by
  obtain ⟨K, _, ⟨φ⟩⟩ := exists_fieldReading c.primPoly_legal
  have hlegal := c.primPoly_legal
  obtain ⟨-, -, num, prevNum, -, hdisc, ⟨hzero, hdegree, hnum, hkey⟩, -⟩ := solveKey_invariant φ syn hnsym
  refine ⟨φ.val_injective hlegal ?constant, fun i hi => (φ.val_eq_zero_iff hlegal).mp ?beyond, ?saved,
    fun n hlen hn => (φ.val_eq_zero_iff hlegal).mp ?recurrence⟩
  case constant => rw [← φ.coeff_toPoly, hzero, φ.val_one]
  case beyond =>
    rw [← φ.coeff_toPoly]
    exact coeff_eq_zero_of_mem_degreeLT hdegree hi
  case saved =>
    intro hnull
    rw [hnull, φ.val_zero] at hdisc
    exact hdisc rfl
  case recurrence =>
    have hcoeff := X_pow_dvd_iff.mp hkey n hn
    rw [coeff_sub, coeff_eq_zero_of_mem_degreeLT hnum hlen, sub_zero] at hcoeff
    rw [φ.val_discrepancy hlen hzero hdegree, hcoeff]

/-- While all syndromes are zero the register stays empty. -/
theorem solveKey_len_of_zero (c : Config) (syn : List Byte) {nsym : Nat} (h : ∀ j, j < nsym → syn.getD j 0 = 0) :
    (solveKey c syn nsym).len = 0 := by
  induction nsym with
  | zero => rfl
  | succ n ih =>
    have hlen := ih fun j hj => h j (by omega)
    have hd : discrepancy c.primPoly syn (solveKey c syn n).conn (solveKey c syn n).len n = 0 := by
      rw [hlen, discrepancy_eq_xorSum, h n (by omega), xorSum_zero]
      exact BitVec.xor_self
    rw [solveKey_succ, keyTurn_keep hd, hlen]

/-! ### What the commands write -/

theorem withLocator_rsL (s : State) : (withLocator s).rsL.toNat = (solveKey s.cfg s.syn s.nsym).len := by
  have hnsym : s.nsym < 256 := s.rsNsym.isLt
  change (BitVec.ofNat 8 _).toNat = _
  rw [BitVec.toNat_ofNat, Nat.mod_eq_of_lt ((solveKey_len_le ..).trans_lt hnsym)]

/-- `OMEGA` by its coefficients (R150). -/
theorem eq_evaluator {c : Config} {syn lambda omega : List Byte} {nsym : Nat} (hlength : omega.length = nsym)
    (h : ∀ k, k < nsym → omega.getD k 0 =
      xorSum (k + 1) fun i => gfMul c.primPoly (syn.getD i 0) (lambda.getD (k - i) 0)) :
    omega = evaluator c syn lambda nsym := by
  refine ext_getD (by simp [hlength, evaluator]) fun k hk => ?_
  rw [hlength] at hk
  rw [h k hk]
  simp [evaluator, List.getD, hk, xorSum]

end Sys2Proof.Machine

namespace Sys2Proof.Proofs

open Sys2Proof.Machine Sys2Proof.Claims

/-- Settles O31: the key equations of the loop's invariant, read as bytes. -/
theorem keySolverSatisfiesTheRecurrence : Obligations.KeySolverSatisfiesTheRecurrence := by
  intro c syn nsym hnsym
  obtain ⟨hconstant, hbeyond, hdisc, hrecurrence⟩ := solveKey_spec c syn hnsym
  refine ⟨(solveKey_lengths c syn nsym).1, hconstant, solveKey_len_le c syn nsym, hbeyond, hdisc, fun n hlen hn => ?_⟩
  have hzero := hrecurrence n hlen hn
  rw [discrepancy_eq_xorSum] at hzero
  exact BitVec.xor_eq_zero_iff.mp hzero

/-- Settles O32: an empty register's recurrence has no terms, and zero syndromes never lengthen the register. -/
theorem keySolverLengthIsZeroExactlyForZeroSyndromes : Obligations.KeySolverLengthIsZeroExactlyForZeroSyndromes := by
  intro c syn nsym hnsym
  refine ⟨fun hlen j hj => ?_, solveKey_len_of_zero c syn⟩
  obtain ⟨-, -, -, hrecurrence⟩ := solveKey_spec c syn hnsym
  have hzero := hrecurrence j (by omega) hj
  rw [discrepancy_eq_xorSum, hlen, xorSum_zero] at hzero
  exact BitVec.xor_eq_zero_iff.mp hzero

/-- Settles O30: the three cases of the stage, which differ in `CODE` and `STAGE`. -/
theorem rsKesWritesTheLocator : Obligations.RsKesWritesTheLocator := by
  refine ⟨(decode_eq_ok_iff_mem _ _).mpr (by decide), fun s => ?_⟩
  have hrsL := withLocator_rsL s
  obtain ⟨hstage, -⟩ | ⟨hstage, hlen, -⟩ | ⟨hstage, hlen, -⟩ := performKes_cases s
  · refine ⟨fun _ => ?_, fun hsyn => absurd hsyn hstage⟩
    rw [exec_rsKes, performKes_outOfOrder hstage]
    rfl
  · refine ⟨fun hsyn => absurd hstage hsyn, fun _ => ?_⟩
    rw [exec_rsKes, performKes_beyond hstage hlen]
    exact ⟨_, rfl, rfl, hrsL, fun _ => ⟨rfl, hstage⟩, fun hle => absurd (hrsL.symm.trans_le hle) hlen.not_ge, rfl, rfl,
      rfl, rfl, rfl, ⟨rfl, rfl, rfl⟩, ⟨rfl, rfl, rfl, rfl, rfl⟩, keepsMemory_of_eq rfl rfl, rfl, rfl, rfl, rfl⟩
  · refine ⟨fun hsyn => absurd hstage hsyn, fun _ => ?_⟩
    rw [exec_rsKes, performKes_within hstage hlen]
    exact ⟨_, rfl, rfl, hrsL, fun hlt => absurd (hlt.trans_eq hrsL) hlen.not_gt, fun _ => ⟨rfl, rfl⟩, rfl, rfl,
      rfl, rfl, rfl, ⟨rfl, rfl, rfl⟩, ⟨rfl, rfl, rfl, rfl, rfl⟩, keepsMemory_of_eq rfl rfl, rfl, rfl, rfl, rfl⟩

/-- Settles O34: the two cases of the stage; a list with the coefficients that the rule gives is the model's `OMEGA`. -/
theorem rsFnyWritesTheErrorValues : Obligations.RsFnyWritesTheErrorValues := by
  refine ⟨(decode_eq_ok_iff_mem _ _).mpr (by decide), fun s => ⟨fun hstage => ?outOfOrder, fun hstage => ?inOrder⟩⟩
  case outOfOrder =>
    rw [exec_rsFny, performFny_outOfOrder hstage]
    rfl
  case inOrder =>
    rw [exec_rsFny, performFny_inOrder hstage]
    refine ⟨_, rfl, fun omega hlength homega q p hq hsize hp => ?values, fun q hq hsize => ?beyond, ?length, rfl, rfl,
      rfl, rfl, rfl, rfl, rfl, rfl, ⟨rfl, rfl, rfl⟩, ⟨rfl, rfl, rfl, rfl, rfl⟩, keepsMemory_of_eq rfl rfl, rfl, rfl,
      rfl, rfl⟩
    case values =>
      subst hp
      rw [eq_evaluator hlength homega]
      exact (withValues_errvalAt s hsize).trans (forneyValue_of_lt hq)
    case beyond => exact (withValues_errvalAt s hsize).trans (if_neg hq.not_gt)
    case length => exact (List.length_map _).trans List.length_range

end Sys2Proof.Proofs
end

section
/-! PROOFS. `RS_DEC` in every case (`41_rs_commands.md` R154, R156, R157; `70_reset_and_hazards.md` R263): the state at
which the chain of stages stops, how far a committed candidate is from the buffer, and what the outcome depends on. The
obligations O36, O37, O38, O40 and O42. -/

namespace Sys2Proof.Machine

open Sys2Proof.Claims

/-! ### Where the chain stops -/

/-- `RS_DEC` stops at `RS_KES`, `RS_CHN` or `RS_APL`, or ends `OK` after all five stages (R154). -/
theorem performDec_eq {s : State} (h : s.cfgRsOk = true) :
    performDec s =
      if tOf s.nsym < (solveKey s.cfg (afterSyn s).syn s.nsym).len then (withLocator (afterSyn s), .errUncorr)
      else if (rootPositions s.cfg (solved s).lambda s.n).length ≠ (solved s).rsL.toNat then
        (withPositions (solved s), .errUncorr)
      else if isCodeword s.cfg (valued s).candidate s.nsym then (decoded s, .ok) else (valued s, .errUncorr) := by
  have hfny : performFny (searched s) = (valued s, .ok) := performFny_inOrder rfl
  rw [performDec, performSyn_passes h, andThen_pair_ok]
  split_ifs with hbeyond hmismatch hgood
  · rw [performKes_beyond (s := afterSyn s) rfl hbeyond]
    rfl
  · have hkes : performKes (afterSyn s) = (solved s, .ok) := performKes_within rfl (not_lt.mp hbeyond)
    rw [hkes, andThen_pair_ok, performChn_mismatch (s := solved s) rfl hmismatch]
    rfl
  · have hkes : performKes (afterSyn s) = (solved s, .ok) := performKes_within rfl (not_lt.mp hbeyond)
    have hchn : performChn (solved s) = (searched s, .ok) := performChn_match rfl (not_not.mp hmismatch)
    rw [hkes, andThen_pair_ok, hchn, andThen_pair_ok, hfny, andThen_pair_ok]
    exact performApl_commits (s := valued s) rfl hgood
  · have hkes : performKes (afterSyn s) = (solved s, .ok) := performKes_within rfl (not_lt.mp hbeyond)
    have hchn : performChn (solved s) = (searched s, .ok) := performChn_match rfl (not_not.mp hmismatch)
    rw [hkes, andThen_pair_ok, hchn, andThen_pair_ok, hfny, andThen_pair_ok]
    exact performApl_refuses (s := valued s) rfl (Bool.eq_false_iff.mpr hgood)

theorem exec_rsDec_fails {s : State} (hconfig : ¬ rsConfig s) : exec .rsDec s = .next (s.done .errCfg) := by
  obtain ⟨hok, -⟩ | ⟨-, hsyn⟩ := performSyn_cases s
  · exact absurd ((cfgRsOk_iff s).mp hok) hconfig
  · rw [exec_rsDec, performDec, hsyn]
    rfl

/-- An `OK` means that no stage stopped the chain. -/
theorem performDec_ok {s : State} (h : s.cfgRsOk = true) (hcode : (performDec s).2 = .ok) :
    (solveKey s.cfg (afterSyn s).syn s.nsym).len ≤ tOf s.nsym ∧
      (rootPositions s.cfg (solved s).lambda s.n).length = (solved s).rsL.toNat ∧
      isCodeword s.cfg (valued s).candidate s.nsym = true ∧ performDec s = (decoded s, .ok) := by
  rw [performDec_eq h] at hcode ⊢
  by_cases hbeyond : tOf s.nsym < (solveKey s.cfg (afterSyn s).syn s.nsym).len
  · rw [if_pos hbeyond] at hcode
    cases hcode
  by_cases hmismatch : (rootPositions s.cfg (solved s).lambda s.n).length ≠ (solved s).rsL.toNat
  · rw [if_neg hbeyond, if_pos hmismatch] at hcode
    cases hcode
  cases hgood : isCodeword s.cfg (valued s).candidate s.nsym with
  | true => exact ⟨not_lt.mp hbeyond, not_not.mp hmismatch, rfl, by rw [if_neg hbeyond, if_neg hmismatch, if_pos rfl]⟩
  | false =>
    rw [if_neg hbeyond, if_neg hmismatch, hgood] at hcode
    cases hcode

theorem decoded_n (s : State) : (decoded s).n = s.n :=
  congrArg BitVec.toNat (keepsOperands_setBuffer (valued s) 0 (valued s).candidate).1

theorem decoded_buffer (s : State) : (decoded s).buffer = (valued s).candidate :=
  buffer_setBuffer (valued s) (candidate_length (valued s))

/-- The commit leaves the result registers and `SZERO` as the stages wrote them. -/
theorem decoded_results (s : State) :
    (decoded s).status.szero = (afterSyn s).status.szero ∧ (decoded s).syn = (afterSyn s).syn ∧
      (decoded s).lambda = (solved s).lambda ∧ (decoded s).rsL = (solved s).rsL ∧
      (decoded s).errloc = (searched s).errloc ∧ (decoded s).rsErrcnt = (searched s).rsErrcnt ∧
      (decoded s).errval = (valued s).errval := by
  rw [decoded, State.setBuffer_eq]
  exact ⟨rfl, rfl, rfl, rfl, rfl, rfl, rfl⟩

/-! ### The distance of the candidate -/

/-- The candidate differs from the buffer only where an error is located. -/
theorem exists_errlocAt_of_candidate_ne {s : State} {i : Nat} (hi : i < s.n) (hne : s.candidate.getD i 0 ≠ s.cw i) :
    ∃ q, q < s.rsErrcnt.toNat ∧ s.errlocAt q = i := by
  by_contra hnone
  refine hne ?_
  rw [candidate_getD s hi, xorSum_eq_zero fun q hq => if_neg fun hloc => hnone ⟨q, hq, hloc⟩]
  exact BitVec.xor_zero

/-- So it differs in at most `RS_ERRCNT` places (R156 (a)). -/
theorem countP_candidate_ne_le (s : State) :
    ((List.range s.n).countP fun i => s.candidate.getD i 0 != s.cw i) ≤ s.rsErrcnt.toNat := by
  have hsubset : (List.range s.n).filter (fun i => s.candidate.getD i 0 != s.cw i) ⊆
      (List.range s.rsErrcnt.toNat).map s.errlocAt := by
    intro i hi
    obtain ⟨hlt, hne⟩ := List.mem_filter.mp hi
    obtain ⟨q, hq, hloc⟩ := exists_errlocAt_of_candidate_ne (List.mem_range.mp hlt) (bne_iff_ne.mp hne)
    exact List.mem_map.mpr ⟨q, List.mem_range.mpr hq, hloc⟩
  have hlength := ((List.nodup_range.filter _).subperm hsubset).length_le
  rwa [← List.countP_eq_length_filter, List.length_map, List.length_range] at hlength

/-! ### A codeword -/

theorem errorPositions_self (w : List Byte) : errorPositions w w = [] :=
  List.filter_eq_nil_iff.mpr fun i _ => by simp

/-- A commit of the bytes that the buffer holds changes no byte of memory. -/
theorem keepsMemory_setBuffer_buffer (s : State) : keepsMemory s (s.setBuffer 0 s.buffer) := by
  intro a
  by_cases ha : ∃ k, k < s.n ∧ a = cwOffset k
  · obtain ⟨k, hk, rfl⟩ := ha
    exact (cw_setBuffer_zero s s.buffer (by rwa [buffer_length])).trans (buffer_getD s hk)
  · refine State.peek_setBuffer_other s 0 s.buffer fun k hk hak => ha ⟨k, ?_, ?_⟩
    · rwa [buffer_length] at hk
    · rwa [Nat.zero_add] at hak

/-! ### What the outcome depends on -/

/-- The `CODE` and the `STAGE` with which `RS_DEC` ends. Tied to the command by `performDec_status`. -/
def stopsAt (s : State) : Code × Stage :=
  if tOf s.nsym < (solveKey s.cfg (afterSyn s).syn s.nsym).len then (.errUncorr, .syn)
  else if (rootPositions s.cfg (solved s).lambda s.n).length ≠ (solved s).rsL.toNat then (.errUncorr, .kes)
  else if isCodeword s.cfg (valued s).candidate s.nsym then (.ok, .apl) else (.errUncorr, .fny)

theorem performDec_status {s : State} (h : s.cfgRsOk = true) :
    ((conclude (performDec s)).status.code, (conclude (performDec s)).status.stage) = stopsAt s := by
  rw [performDec_eq h, stopsAt]
  split_ifs <;> rfl

/-- `t` holds what the stages wrote before the chain stopped there. -/
structure DecodeResults (s t : State) : Prop where
  szero : t.status.szero = (afterSyn s).status.szero
  syn : t.syn = (afterSyn s).syn
  lambda : t.lambda = (solved s).lambda
  rsL : t.rsL = (solved s).rsL
  errloc : t.status.stage ≠ .syn → t.errloc = (searched s).errloc
  rsErrcnt : t.status.stage ≠ .syn → t.rsErrcnt = (searched s).rsErrcnt
  errval : t.status.stage = .apl → t.errval = (valued s).errval
  cw_committed : t.status.stage = .apl → ∀ i, t.cw i = (decoded s).cw i
  cw_kept : t.status.stage ≠ .apl → ∀ i, t.cw i = s.cw i

theorem DecodeResults.done {s t : State} (h : DecodeResults s t) (code : Code) : DecodeResults s (t.done code) :=
  ⟨h.szero, h.syn, h.lambda, h.rsL, h.errloc, h.rsErrcnt, h.errval, h.cw_committed, h.cw_kept⟩

theorem decoded_decodeResults (s : State) : DecodeResults s (decoded s) := by
  obtain ⟨hszero, hsyn, hlambda, hrsL, herrloc, hcount, herrval⟩ := decoded_results s
  exact ⟨hszero, hsyn, hlambda, hrsL, fun _ => herrloc, fun _ => hcount, fun _ => herrval, fun _ _ => rfl,
    fun hne => absurd rfl hne⟩

theorem valued_decodeResults (s : State) : DecodeResults s (valued s) :=
  ⟨rfl, rfl, rfl, rfl, fun _ => rfl, fun _ => rfl, fun _ => rfl, nofun, fun _ _ => rfl⟩

theorem withPositions_decodeResults (s : State) : DecodeResults s (withPositions (solved s)) :=
  ⟨rfl, rfl, rfl, rfl, fun _ => rfl, fun _ => rfl, nofun, nofun, fun _ _ => rfl⟩

theorem withLocator_decodeResults (s : State) : DecodeResults s (withLocator (afterSyn s)) :=
  ⟨rfl, rfl, rfl, rfl, fun hne => absurd rfl hne, fun hne => absurd rfl hne, nofun, nofun, fun _ _ => rfl⟩

theorem performDec_decodeResults {s : State} (h : s.cfgRsOk = true) : DecodeResults s (conclude (performDec s)) := by
  rw [performDec_eq h]
  split_ifs
  · exact (withLocator_decodeResults s).done _
  · exact (withPositions_decodeResults s).done _
  · exact (decoded_decodeResults s).done _
  · exact (valued_decodeResults s).done _

/-- Two blocks with the same parameters, operands and buffer. -/
structure SameOperands (s s' : State) : Prop where
  cfg : s.cfg = s'.cfg
  n : s.n = s'.n
  nsym : s.nsym = s'.nsym
  buffer : s.buffer = s'.buffer

namespace SameOperands

variable {s s' : State} (h : SameOperands s s')
include h

theorem cfgRsOk : s.cfgRsOk = s'.cfgRsOk := by simp only [State.cfgRsOk, h.n, h.nsym, h.cfg]

theorem syn : (afterSyn s).syn = (afterSyn s').syn := by
  simp only [afterSyn, h.cfg, h.buffer, h.nsym]

theorem szero : (afterSyn s).status.szero = (afterSyn s').status.szero := by
  simp only [afterSyn, h.cfg, h.buffer, h.nsym]

theorem solver : solveKey s.cfg (afterSyn s).syn s.nsym = solveKey s'.cfg (afterSyn s').syn s'.nsym := by
  rw [h.syn, h.cfg, h.nsym]

theorem lambda : (solved s).lambda = (solved s').lambda := congrArg KeySolver.conn h.solver

theorem rsL : (solved s).rsL = (solved s').rsL := congrArg (fun k : KeySolver => BitVec.ofNat 8 k.len) h.solver

theorem roots : rootPositions s.cfg (solved s).lambda s.n = rootPositions s'.cfg (solved s').lambda s'.n := by
  rw [h.lambda, h.cfg, h.n]

theorem errloc : (searched s).errloc = (searched s').errloc := by
  change padded s.cfg.tMax ((rootPositions s.cfg (solved s).lambda s.n).map (BitVec.ofNat 8)) = _
  rw [h.roots, h.cfg]
  rfl

theorem rsErrcnt : (searched s).rsErrcnt = (searched s').rsErrcnt :=
  congrArg (fun l : List Nat => BitVec.ofNat 8 l.length) h.roots

theorem errlocAt : (searched s).errlocAt = (searched s').errlocAt :=
  funext fun k => congrArg (fun l : List Byte => (l.getD k 0).toNat) h.errloc

theorem forneyValue (q : Nat) : Machine.forneyValue (searched s) q = Machine.forneyValue (searched s') q := by
  have hevaluator : evaluator s.cfg (afterSyn s).syn (solved s).lambda s.nsym =
      evaluator s'.cfg (afterSyn s').syn (solved s').lambda s'.nsym := by rw [h.syn, h.lambda, h.cfg, h.nsym]
  change (if q < (searched s).rsErrcnt.toNat then errorValue s.cfg
    (evaluator s.cfg (afterSyn s).syn (solved s).lambda s.nsym) (solved s).lambda
    (degreeOf s.n ((searched s).errlocAt q)) else 0) = _
  rw [hevaluator, h.rsErrcnt, h.lambda, h.errlocAt, h.cfg, h.n]
  rfl

theorem errval : (valued s).errval = (valued s').errval := by
  change (List.range s.cfg.tMax).map (Machine.forneyValue (searched s)) = _
  rw [funext h.forneyValue, h.cfg]
  rfl

theorem candidate : (valued s).candidate = (valued s').candidate := by
  have herrvalAt : (valued s).errvalAt = (valued s').errvalAt :=
    funext fun k => congrArg (fun l : List Byte => l.getD k 0) h.errval
  change (List.range (searched s).rsErrcnt.toNat).foldl
    (fun w q => w.modify ((searched s).errlocAt q) (· ^^^ (valued s).errvalAt q)) s.buffer = _
  rw [h.rsErrcnt, h.errlocAt, herrvalAt, h.buffer]
  rfl

theorem decoded_cw {i : Nat} (hi : i < s.n) : (decoded s).cw i = (decoded s').cw i := by
  have hn' : i < s'.n := hi.trans_eq h.n
  rw [← buffer_getD (decoded s) (by rwa [decoded_n]), ← buffer_getD (decoded s') (by rwa [decoded_n]), decoded_buffer,
    decoded_buffer, h.candidate]

/-- The chain stops at the same place. -/
theorem stopsAt : Machine.stopsAt s = Machine.stopsAt s' := by
  simp only [Machine.stopsAt, h.syn, h.lambda, h.rsL, h.candidate, h.cfg, h.n, h.nsym]

end SameOperands

end Sys2Proof.Machine

namespace Sys2Proof.Proofs

open Sys2Proof.Machine Sys2Proof.Claims

/-- Settles O36: no stage reads `CODE`, so a chain of commands is the chain of their stages. -/
theorem rsDecEqualsTheStagesOneByOne : Obligations.RsDecEqualsTheStagesOneByOne :=
  ⟨(decode_eq_ok_iff_mem _ _).mpr (by decide), fun s => (exec_rsDec s).trans (untilFailure_stages s).symm⟩

/-- Settles O37: the four places where the chain stops. -/
theorem rsDecOutcomes : Obligations.RsDecOutcomes := by
  refine fun s => ⟨exec_rsDec_fails, fun hconfig => ?_⟩
  rw [exec_rsDec, performDec_eq ((cfgRsOk_iff s).mpr hconfig)]
  split_ifs
  · exact ⟨_, rfl, .inr ⟨rfl, .inl rfl⟩⟩
  · exact ⟨_, rfl, .inr ⟨rfl, .inr (.inl rfl)⟩⟩
  · exact ⟨_, rfl, .inl ⟨rfl, rfl⟩⟩
  · exact ⟨_, rfl, .inr ⟨rfl, .inr (.inr rfl)⟩⟩

/-- Settles O38: the candidate that was committed is a codeword, differs from the buffer at the located errors only, and
these are as many as the register is long. -/
theorem rsDecOkLeavesACodewordWithinCapacity : Obligations.RsDecOkLeavesACodewordWithinCapacity := by
  intro s t hconfig hexec hcode
  obtain rfl := Host.Outcome.next.inj ((exec_rsDec s).symm.trans hexec)
  obtain ⟨hlen, hroots, hgood, hdec⟩ := performDec_ok ((cfgRsOk_iff s).mpr hconfig) hcode
  obtain ⟨-, -, -, -, -, hcount, -⟩ := decoded_results s
  rw [hdec]
  refine ⟨?codeword, ?distance, ?capacity⟩
  case codeword =>
    change ∀ j, j < s.nsym → syndrome s.cfg (decoded s).buffer j = 0
    rw [decoded_buffer]
    exact (isCodeword_iff s.cfg (valued s).candidate s.nsym).mp hgood
  case distance =>
    refine le_trans (le_of_eq (List.countP_congr fun i hi => ?_))
      ((countP_candidate_ne_le (valued s)).trans_eq (congrArg BitVec.toNat hcount).symm)
    have hi' : i < (valued s).candidate.length := by rw [candidate_length]; exact List.mem_range.mp hi
    rw [← cw_setBuffer_zero (valued s) (valued s).candidate hi']
    rfl
  case capacity =>
    calc ((decoded s).done .ok).rsErrcnt.toNat = (searched s).rsErrcnt.toNat := congrArg BitVec.toNat hcount
      _ = (solved s).rsL.toNat := (withPositions_rsErrcnt (solved s)).trans hroots
      _ = (solveKey s.cfg (afterSyn s).syn s.nsym).len := withLocator_rsL (afterSyn s)
      _ ≤ s.nsym / 2 := hlen

/-- Settles O40: a codeword is within capacity of itself with no error, so that the candidate is the buffer. -/
theorem rsDecAcceptsACodewordUnchanged : Obligations.RsDecAcceptsACodewordUnchanged := by
  intro s hconfig hzero
  have hnone := errorPositions_self s.buffer
  have h := withinCapacity_of_rsConfig hconfig (buffer_length s) hzero (by rw [hnone]; exact Nat.zero_le _)
  obtain ⟨hszero', -, -, hrsL, -, hrsErrcnt, -⟩ := decoded_results s
  have hexec : exec .rsDec s = .next ((decoded s).done .ok) := by
    rw [exec_rsDec, performDec_within h hconfig]
    rfl
  have hframe := exec_rs_frame (by simp [isRs]) hexec
  refine ⟨_, hexec, rfl, rfl, ?szero, ?length, ?count, ?memory, hframe.operands, hframe.cursor, hframe.port⟩
  case szero => exact hszero'.trans ((isCodeword_iff s.cfg s.buffer s.nsym).mpr hzero)
  case length =>
    refine BitVec.eq_of_toNat_eq ((congrArg BitVec.toNat hrsL).trans ((solved_rsL h).trans ?_))
    rw [hnone]
    rfl
  case count =>
    refine BitVec.eq_of_toNat_eq ((congrArg BitVec.toNat hrsErrcnt).trans ((searched_rsErrcnt h).trans ?_))
    rw [hnone]
    rfl
  case memory =>
    have hkeeps := keepsMemory_setBuffer_buffer (valued s)
    rw [show (valued s).buffer = (valued s).candidate from (valued_candidate h).symm] at hkeeps
    exact hkeeps

/-- Settles O42: the chain stops at the same place for the two blocks, and what each stage writes is the same. -/
theorem rsDecDependsOnItsOperandsOnly : Obligations.RsDecDependsOnItsOperandsOnly := by
  intro s s' t t' hcfg hrsN hrsNsym hconfig hcw hexec hexec'
  have hn : s.n = s'.n := congrArg BitVec.toNat hrsN
  have hbuffer : s.buffer = s'.buffer := by
    refine ext_getD (by simpa using hn) fun i hi => ?_
    rw [buffer_length] at hi
    rw [buffer_getD s hi, buffer_getD s' (hi.trans_eq hn), hcw i hi]
  have h : SameOperands s s' := ⟨hcfg, hn, congrArg BitVec.toNat hrsNsym, hbuffer⟩
  have hok := (cfgRsOk_iff s).mpr hconfig
  obtain rfl := Host.Outcome.next.inj ((exec_rsDec s).symm.trans hexec)
  obtain rfl := Host.Outcome.next.inj ((exec_rsDec s').symm.trans hexec')
  obtain ⟨hcode, hstage⟩ := Prod.ext_iff.mp
    ((performDec_status hok).trans (h.stopsAt.trans (performDec_status (h.cfgRsOk ▸ hok)).symm))
  have hr := performDec_decodeResults hok
  have hr' := performDec_decodeResults (h.cfgRsOk ▸ hok)
  generalize conclude (performDec s) = t at hr hcode hstage
  generalize conclude (performDec s') = t' at hr' hcode hstage
  change t.status.code = t'.status.code at hcode
  change t.status.stage = t'.status.stage at hstage
  refine ⟨hcode, hstage, ?szero, ?syn, ?lambda, ?rsL, fun hne => ⟨?errloc, ?rsErrcnt⟩, fun hapl => ?errval,
    fun i hi => ?cw⟩
  case szero => rw [hr.szero, hr'.szero, h.szero]
  case syn => rw [hr.syn, hr'.syn, h.syn]
  case lambda => rw [hr.lambda, hr'.lambda, h.lambda]
  case rsL => rw [hr.rsL, hr'.rsL, h.rsL]
  case errloc => rw [hr.errloc hne, hr'.errloc (hstage ▸ hne), h.errloc]
  case rsErrcnt => rw [hr.rsErrcnt hne, hr'.rsErrcnt (hstage ▸ hne), h.rsErrcnt]
  case errval => rw [hr.errval hapl, hr'.errval (hstage ▸ hapl), h.errval]
  case cw =>
    by_cases hapl : t.status.stage = .apl
    · rw [hr.cw_committed hapl, hr'.cw_committed (hstage ▸ hapl), h.decoded_cw hi]
    · rw [hr.cw_kept hapl, hr'.cw_kept (hstage ▸ hapl), hcw i hi]

end Sys2Proof.Proofs
end

section
/-! PROOFS. The path (`42_ff_commands.md` R181 to R183): an index of the path as strip, row and column of the strip, the
path index of a cell, and the cells of the square counted along the path. The obligations O44 and O49. -/

namespace Sys2Proof.Machine

open Sys2Proof.Claims

/-! ### An index of the path (R181) -/

/-- Strip `strip`, step `k` along it, column `c` of its two. -/
def stripIndex (side strip k c : Nat) : Nat := 2 * side * strip + (2 * k + c)

variable {side strip k c idx x y : Nat}

/-- `cell_of` at the index of a place in a strip: strips run from the right, upwards and downwards in turn. -/
theorem cellOf_stripIndex (hk : k < side) (hc : c < 2) :
    cellOf (stripIndex side strip k c) side =
      ((side : Int) - 1 - 2 * (strip : Int) - (c : Int), if strip % 2 = 0 then side - 1 - k else k) := by
  have hplace : 2 * k + c < 2 * side := by omega
  have hstrip : stripIndex side strip k c / (2 * side) = strip := by
    rw [stripIndex, Nat.mul_add_div (by omega), Nat.div_eq_of_lt hplace, Nat.add_zero]
  have hstep : stripIndex side strip k c % (2 * side) / 2 = k := by
    rw [stripIndex, Nat.mul_add_mod, Nat.mod_eq_of_lt hplace]
    omega
  have hcolumn : stripIndex side strip k c % 2 = c := by
    rw [stripIndex, Nat.mul_assoc, Nat.mul_add_mod]
    omega
  simp only [cellOf, hstrip, hstep, hcolumn]

theorem stripIndex_lt_idxEnd (hstrip : strip < (side + 1) / 2) (hk : k < side) (hc : c < 2) :
    stripIndex side strip k c < idxEnd side :=
  calc stripIndex side strip k c < 2 * side * strip + 2 * side := by rw [stripIndex]; omega
    _ = 2 * side * (strip + 1) := (Nat.mul_succ _ _).symm
    _ ≤ idxEnd side := Nat.mul_le_mul_left _ hstrip

/-- Every index of the path is that of a place in one of its strips. -/
theorem exists_stripIndex (h : idx < idxEnd side) :
    ∃ strip k c, strip < (side + 1) / 2 ∧ k < side ∧ c < 2 ∧ idx = stripIndex side strip k c := by
  have hside : 0 < 2 * side := Nat.pos_of_ne_zero fun hzero => by simp [idxEnd, hzero] at h
  have hmod := Nat.mod_lt idx hside
  refine ⟨idx / (2 * side), idx % (2 * side) / 2, idx % (2 * side) % 2, Nat.div_lt_of_lt_mul h, by omega,
    Nat.mod_lt _ (by decide), ?_⟩
  rw [stripIndex, Nat.div_add_mod (idx % (2 * side)) 2, Nat.div_add_mod]

/-! ### The path index of a cell (R183) -/

/-- The path index of the cell in column `x` and row `y`. Tied to the path by `cellOf_pathIndex` and
`eq_pathIndex_of_cellOf`. -/
def pathIndex (side x y : Nat) : Nat :=
  stripIndex side ((side - 1 - x) / 2) (if (side - 1 - x) / 2 % 2 = 0 then side - 1 - y else y) ((side - 1 - x) % 2)

theorem pathIndex_lt (hx : x < side) (hy : y < side) : pathIndex side x y < idxEnd side :=
  stripIndex_lt_idxEnd (by omega) (by split_ifs <;> omega) (Nat.mod_lt _ (by decide))

theorem cellOf_pathIndex (hx : x < side) (hy : y < side) : cellOf (pathIndex side x y) side = ((x : Int), y) := by
  rw [pathIndex, cellOf_stripIndex (by split_ifs <;> omega) (Nat.mod_lt _ (by decide))]
  refine Prod.ext (by omega) ?_
  split_ifs <;> omega

/-- No other index has the cell. -/
theorem eq_pathIndex_of_cellOf (h : idx < idxEnd side) (hcell : cellOf idx side = ((x : Int), y)) :
    idx = pathIndex side x y := by
  obtain ⟨strip, k, c, -, hk, hc, rfl⟩ := exists_stripIndex h
  rw [cellOf_stripIndex hk hc] at hcell
  obtain ⟨hx, hy⟩ := Prod.ext_iff.mp hcell
  have hstrip : (side - 1 - x) / 2 = strip := by omega
  have hcolumn : (side - 1 - x) % 2 = c := by omega
  have hstep : (if strip % 2 = 0 then side - 1 - y else y) = k := by
    change (if strip % 2 = 0 then side - 1 - k else k) = y at hy
    split_ifs at hy ⊢ <;> omega
  rw [pathIndex, hstrip, hcolumn, hstep]

/-- A candidate has a row of the square, and a column of it or the one beside it for an odd side (R182). -/
theorem cellOf_range (h : idx < idxEnd side) :
    (cellOf idx side).2 < side ∧ (cellOf idx side).1 < side ∧
      ((cellOf idx side).1 < 0 → (cellOf idx side).1 = -1 ∧ side % 2 = 1) := by
  obtain ⟨strip, k, c, hstrip, hk, hc, rfl⟩ := exists_stripIndex h
  rw [cellOf_stripIndex hk hc]
  refine ⟨?_, by omega, fun hneg => ⟨by omega, by omega⟩⟩
  change (if strip % 2 = 0 then side - 1 - k else k) < side
  split_ifs <;> omega

/-! ### Cells counted along the path -/

theorem countP_range_eq_card (p : Nat → Bool) (n : Nat) :
    (List.range n).countP p = ((Finset.range n).filter fun i => p i = true).card := by
  have hdecide : (List.range n).filter p = (List.range n).filter fun i => decide (p i = true) :=
    List.filter_congr fun i _ => by simp
  rw [List.countP_eq_length_filter, hdecide]
  rfl

/-- Counting the cells of the square along the path and counting them row by row is the same. -/
theorem countP_path_eq_sum (side : Nat) (p : Nat → Nat → Bool) :
    ((List.range (idxEnd side)).countP fun idx =>
      decide (0 ≤ (cellOf idx side).1) && p (cellOf idx side).2 (cellOf idx side).1.toNat) =
    ((List.range side).map fun y => (List.range side).countP fun x => p y x).sum := by
  have hrows : ((List.range side).map fun y => (List.range side).countP fun x => p y x).sum =
      ∑ y ∈ Finset.range side, ((Finset.range side).filter fun x => p y x = true).card := by
    simp only [countP_range_eq_card]
    rfl
  rw [countP_range_eq_card, hrows, ← Finset.card_sigma]
  refine Finset.card_nbij' (fun idx => ⟨(cellOf idx side).2, (cellOf idx side).1.toNat⟩)
    (fun cell => pathIndex side cell.2 cell.1) ?_ ?_ ?_ ?_
  · intro idx hidx
    obtain ⟨hlt, hcell⟩ := Finset.mem_filter.mp hidx
    obtain ⟨hgrid, hp⟩ := (Bool.and_eq_true _ _).mp hcell
    obtain ⟨hrow, hcolumn, -⟩ := cellOf_range (Finset.mem_range.mp hlt)
    have hgrid := of_decide_eq_true hgrid
    have hcolumn : (cellOf idx side).1.toNat < side := by omega
    exact Finset.mem_sigma.mpr ⟨Finset.mem_range.mpr hrow, Finset.mem_filter.mpr ⟨Finset.mem_range.mpr hcolumn, hp⟩⟩
  · intro cell hcell
    obtain ⟨hy, hx⟩ := Finset.mem_sigma.mp hcell
    obtain ⟨hx, hp⟩ := Finset.mem_filter.mp hx
    have hy := Finset.mem_range.mp hy
    have hx := Finset.mem_range.mp hx
    refine Finset.mem_filter.mpr ⟨Finset.mem_range.mpr (pathIndex_lt hx hy), ?_⟩
    rw [cellOf_pathIndex hx hy]
    simpa using hp
  · intro idx hidx
    obtain ⟨hlt, hcell⟩ := Finset.mem_filter.mp hidx
    obtain ⟨hgrid, -⟩ := (Bool.and_eq_true _ _).mp hcell
    have hgrid := of_decide_eq_true hgrid
    exact (eq_pathIndex_of_cellOf (Finset.mem_range.mp hlt) (Prod.ext (Int.toNat_of_nonneg hgrid).symm rfl)).symm
  · intro cell hcell
    obtain ⟨hy, hx⟩ := Finset.mem_sigma.mp hcell
    obtain ⟨hx, -⟩ := Finset.mem_filter.mp hx
    change (⟨(cellOf (pathIndex side cell.2 cell.1) side).2, (cellOf (pathIndex side cell.2 cell.1) side).1.toNat⟩ :
      (_ : Nat) × Nat) = cell
    rw [cellOf_pathIndex (Finset.mem_range.mp hx) (Finset.mem_range.mp hy)]
    rfl

/-- The candidates on the grid are the cells of the square. -/
theorem countP_onGrid (side : Nat) :
    (List.range (idxEnd side)).countP (fun idx => decide (0 ≤ (cellOf idx side).1)) = side * side := by
  have hcount := countP_path_eq_sum side fun _ _ => true
  simpa using hcount

/-- The data-bearing cells of the path are those of the square (`00_scope.md` R17). -/
theorem dataFrom_zero_length (s : State) : (dataFrom s 0).length = dataCells s := by
  have hcount := countP_path_eq_sum s.side fun y x => !s.func y x
  rw [dataCells, ← hcount, dataFrom, ← List.countP_eq_length_filter]
  exact List.countP_congr fun idx _ => by simp [State.dataBearing]

end Sys2Proof.Machine

namespace Sys2Proof.Proofs

open Sys2Proof.Machine Sys2Proof.Claims

/-- Settles O44: the path index of a cell, the range of a candidate, and the candidates off the grid as those that are
left of the path when the cells of the square are counted. -/
theorem pathVisitsEveryCellOnce : Obligations.PathVisitsEveryCellOnce := by
  intro side _
  refine ⟨fun x y hx hy => ⟨pathIndex side x y, pathIndex_lt hx hy, cellOf_pathIndex hx hy,
    fun _ hidx hcell => eq_pathIndex_of_cellOf hidx hcell⟩, fun _ hidx => cellOf_range hidx, ?_⟩
  have htotal := List.length_eq_countP_add_countP (fun idx => decide (0 ≤ (cellOf idx side).1))
    (l := List.range (idxEnd side))
  have hoff : (List.range (idxEnd side)).countP (fun idx => decide ((cellOf idx side).1 < 0)) =
      (List.range (idxEnd side)).countP (fun idx => decide ¬ decide (0 ≤ (cellOf idx side).1) = true) :=
    List.countP_congr fun idx _ => by simp
  rw [List.length_range, countP_onGrid, ← hoff] at htotal
  generalize (List.range (idxEnd side)).countP (fun idx => decide ((cellOf idx side).1 < 0)) = off at htotal
  rw [idxEnd] at htotal
  obtain ⟨m, rfl | rfl⟩ := Nat.even_or_odd' side
  · have hhalf : (2 * m + 1) / 2 = m := by omega
    rw [hhalf] at htotal
    rw [if_neg (by omega)]
    linarith
  · have hhalf : (2 * m + 1 + 1) / 2 = m + 1 := by omega
    rw [hhalf] at htotal
    rw [if_pos (by omega)]
    linarith

/-- Settles O49: the cells ahead of a cursor at the start of the path are the data-bearing cells of the square, and
their number decides between the outcomes of O48. -/
theorem ffFillOutcomeIsTheCellCount : Obligations.FfFillOutcomeIsTheCellCount := by
  intro s hconfig hn
  obtain ⟨t, hexec, -, -, -, -, -, hshort, hexact, hmore, hwhole, -⟩ :=
    (ffFillAssemblesTheCodewords.2 s).2 hconfig hn _ rfl
  rw [dataFrom_zero_length] at hshort hexact hmore hwhole
  refine ⟨t, hexec, ?_⟩
  obtain hlt | heq | hgt := lt_trichotomy (dataCells s) (8 * s.n)
  · have hcode := (hshort hlt).1
    exact ⟨iff_of_false (by simp [hcode]) hlt.ne, iff_of_true hcode hlt, iff_of_false (by simp [hcode]) hlt.not_gt,
      fun heq => absurd heq hlt.ne⟩
  · have hcode := (hexact heq).1
    exact ⟨iff_of_true hcode heq, iff_of_false (by simp [hcode]) heq.not_lt, iff_of_false (by simp [hcode]) heq.not_gt,
      fun _ => (hwhole heq.ge).1⟩
  · have hcode := (hmore hgt).1
    exact ⟨iff_of_false (by simp [hcode]) hgt.ne', iff_of_false (by simp [hcode]) hgt.not_gt, iff_of_true hcode hgt,
      fun heq => absurd heq hgt.ne'⟩

end Sys2Proof.Proofs
end

section
/-! PROOFS. `FF_GET` in groups (`42_ff_commands.md` R188, R189): a group is as many single bits, whose results only
`FF_DATA` tells apart. The obligation O47. -/

namespace Sys2Proof.Machine

open Sys2Proof.Claims

/-! ### The cursor reads neither `STATUS` nor `FF_DATA` -/

/-- The state with another `STATUS` and `FF_DATA`. -/
def State.withFlags (s : State) (status : Status) (data : Byte) : State := { s with status := status, ffData := data }

theorem seekFrom_withFlags (s : State) (status : Status) (data : Byte) (fuel idx : Nat) :
    (s.withFlags status data).seekFrom fuel idx = s.seekFrom fuel idx := by
  have hbearing : (s.withFlags status data).dataBearing = s.dataBearing := rfl
  induction fuel generalizing idx with
  | zero => rfl
  | succ fuel ih => rw [State.seekFrom, State.seekFrom, hbearing, ih]

/-- `seek` by the index that its loop finds. -/
theorem seek_of_seekFrom {s : State} {idx : Nat} (h : s.seekFrom (idxEnd s.side - s.ffIdx.toNat) s.ffIdx.toNat = idx) :
    s.seek = (s.moveTo idx, decide (idx < idxEnd s.side)) := by
  subst h
  rfl

theorem seek_withFlags (s : State) (status : Status) (data : Byte) :
    (s.withFlags status data).seek = (s.seek.1.withFlags status data, s.seek.2) :=
  seek_of_seekFrom (seekFrom_withFlags s status data _ _)

/-- After a search that found nothing the cursor stays where it is, also beyond the path. -/
theorem seek_seek_exhausted {s : State} (hnone : s.seek.2 = false) : s.seek.1.seek = (s.seek.1, false) := by
  obtain ⟨-, hle, -, -⟩ := seekFrom_spec s (idxEnd s.side - s.ffIdx.toNat) s.ffIdx.toNat
  generalize hfound : s.seekFrom (idxEnd s.side - s.ffIdx.toNat) s.ffIdx.toNat = idx at hle
  rw [seek_of_seekFrom hfound] at hnone ⊢
  have hend : idxEnd s.side ≤ idx := not_lt.mp (of_decide_eq_false hnone)
  have hidx : (s.moveTo idx).ffIdx.toNat = idx := by
    have hpath := idxEnd_side_lt s
    have hregister := s.ffIdx.isLt
    exact toNat_ffIdx_moveTo s (by omega)
  have hstays :
      (s.moveTo idx).seekFrom (idxEnd s.side - (s.moveTo idx).ffIdx.toNat) (s.moveTo idx).ffIdx.toNat = idx := by
    rw [hidx, Nat.sub_eq_zero_of_le hend]
    rfl
  exact (seek_of_seekFrom hstays).trans (Prod.ext rfl hnone)

/-! ### One bit -/

/-- The state with another `CODE` and `FF_DATA`, as an `FF_GET` that ended `OK` writes them. -/
def State.withResult (s : State) (code : Code) (data : Byte) : State := s.withFlags { s.status with code := code } data

/-- The state after an `FF_GET` that ran out of bits. -/
def State.ranOut (s : State) (data : Byte) : State :=
  s.withFlags { s.status with code := .errUnderrun, ffState := .ended } data

theorem exec_ffGet_one {s : State} (hactive : s.status.ffState ≠ .idle) :
    exec (.ffGet 1) s = .next (finishGet (s.takeBits 0 1)) := exec_ffGet_active rfl hactive

theorem seek_withResult (s : State) (code : Code) (data : Byte) :
    (s.withResult code data).seek = (s.seek.1.withResult code data, s.seek.2) := seek_withFlags s _ data

/-- One bit found, whatever `CODE` and `FF_DATA` were. -/
theorem exec_ffGet_one_found {s : State} (hactive : s.status.ffState ≠ .idle) (hseek : s.seek.2 = true) (code : Code)
    (data : Byte) :
    exec (.ffGet 1) (s.withResult code data) =
      .next (s.seek.1.takeBit.2.withResult .ok (shiftIn 0 s.seek.1.takeBit.1)) := by
  rw [exec_ffGet_one (s := s.withResult code data) hactive, takeBits_found (by rw [seek_withResult, hseek]),
    seek_withResult, takeBits_zero]
  rfl

/-- No bit found, whatever `CODE` and `FF_DATA` were. -/
theorem exec_ffGet_one_exhausted {s : State} (hactive : s.status.ffState ≠ .idle) (hseek : s.seek.2 = false)
    (code : Code) (data : Byte) :
    exec (.ffGet 1) (s.withResult code data) = .next (s.seek.1.ranOut data) := by
  rw [exec_ffGet_one (s := s.withResult code data) hactive, takeBits_exhausted (by rw [seek_withResult, hseek]),
    seek_withResult, finishGet_none]
  rfl

/-- A bit sought again after the bits ran out changes nothing. -/
theorem exec_ffGet_one_ranOut {s : State} (hseek : s.seek.2 = false) (data : Byte) :
    exec (.ffGet 1) (s.seek.1.ranOut data) = .next (s.seek.1.ranOut data) := by
  have hstays : (s.seek.1.ranOut data).seek = (s.seek.1.ranOut data, false) := by
    rw [State.ranOut, seek_withFlags, seek_seek_exhausted hseek]
  have hexec := exec_ffGet_one_exhausted (s := s.seek.1.ranOut data) nofun (by rw [hstays]) .errUnderrun data
  rw [hstays] at hexec
  exact hexec

/-! ### Bit by bit -/

theorem issueTimes_succ {i : Instr} {s t : State} (h : exec i s = .next t) (k : Nat) :
    issueTimes i (k + 1) s = issueTimes i k t := by rw [issueTimes, h]

/-- A command that changes nothing may be issued again. -/
theorem issueTimes_of_fixed {i : Instr} {s : State} (h : exec i s = .next s) (k : Nat) :
    issueTimes i k s = .next s := by
  induction k with
  | zero => rfl
  | succ k ih => rw [issueTimes_succ h, ih]

theorem exec_ffGet_idle {n : BitVec 8} {s : State} (hcount : legalCount n = true) (hidle : s.status.ffState = .idle) :
    exec (.ffGet n) s = .next (s.done .errSeq) := by
  rw [exec_ffGet, hcount, if_pos hidle]
  rfl

/-- Bits taken one by one end in the state of the group, but for `FF_DATA`: each bit found is one taken off the group,
and after the first one missing the further commands change nothing. -/
theorem issueTimes_ffGet_one (k : Nat) {s : State} (hactive : s.status.ffState ≠ .idle) (code : Code)
    (data temp : Byte) :
    ∃ t, issueTimes (.ffGet 1) (k + 1) (s.withResult code data) = .next t ∧
      { t with ffData := (finishGet (s.takeBits temp (k + 1))).ffData } = finishGet (s.takeBits temp (k + 1)) := by
  induction k generalizing s code data temp with
  | zero =>
    cases hseek : s.seek.2 with
    | false =>
      rw [takeBits_exhausted hseek]
      exact ⟨_, issueTimes_succ (exec_ffGet_one_exhausted hactive hseek code data) 0, rfl⟩
    | true =>
      rw [takeBits_found hseek]
      exact ⟨_, issueTimes_succ (exec_ffGet_one_found hactive hseek code data) 0, rfl⟩
  | succ k ih =>
    cases hseek : s.seek.2 with
    | false =>
      rw [takeBits_exhausted hseek, issueTimes_succ (exec_ffGet_one_exhausted hactive hseek code data)]
      exact ⟨_, issueTimes_of_fixed (exec_ffGet_one_ranOut hseek data) (k + 1), rfl⟩
    | true =>
      rw [takeBits_found hseek, issueTimes_succ (exec_ffGet_one_found hactive hseek code data)]
      exact ih (s := s.seek.1.takeBit.2) hactive .ok _ _

end Sys2Proof.Machine

namespace Sys2Proof.Proofs

open Sys2Proof.Machine Sys2Proof.Claims

/-- Settles O47: an idle cursor refuses every command alike, and otherwise the bits are taken one by one. -/
theorem ffGetOneByOneEqualsOneGroup : Obligations.FfGetOneByOneEqualsOneGroup := by
  intro s k hpos hle
  have hcount : legalCount k = true := (legalCount_iff k).mpr ⟨hpos, hle⟩
  obtain ⟨m, hm⟩ := Nat.exists_eq_add_of_le' hpos
  rw [hm]
  by_cases hidle : s.status.ffState = .idle
  · refine ⟨s.done .errSeq, s.done .errSeq, ?_, exec_ffGet_idle hcount hidle, rfl⟩
    rw [issueTimes_succ (exec_ffGet_idle rfl hidle)]
    exact issueTimes_of_fixed (exec_ffGet_idle (s := s.done .errSeq) rfl hidle) m
  · obtain ⟨t, hone, hgroup⟩ := issueTimes_ffGet_one m hidle s.status.code s.ffData 0
    rw [← hm] at hgroup
    exact ⟨t, _, hone, exec_ffGet_active hcount hidle, hgroup⟩

end Sys2Proof.Proofs
end

section
/-! PROOFS. The reset values as the host reads them (`70_reset_and_hazards.md` R260, R262): the obligation O10. -/

namespace Sys2Proof.Proofs

open Sys2Proof.Machine Sys2Proof.Claims

/-- A location of the reset state whose field is 0 reads 0. -/
theorem readsNat_reset_zero {l : Loc} (hl : l.inMap Config.default) (hzero : State.reset.valueAt l = 0) :
    readsNat State.reset (offsetOf l) 0 := by
  rw [readsNat, readOf_offsetOf (s := State.reset) hl, hzero]
  rfl

/-- An array of zeros has a zero at every index. -/
theorem replicate_zero_getD (k i : Nat) : (List.replicate k (0 : Byte)).getD i 0 = 0 := by simp [List.getD]

/-- Settles O10: the constants of R24 to R26, the scalar registers one by one, the arrays of zeros, and the bytes that
nothing has written. -/
theorem resetStateReadsItsResetValues : Obligations.ResetStateReadsItsResetValues := by
  refine ⟨readsNat_id _, readsNat_cap0 _, readsNat_cap1 _, ?scalars, fun j hj => ?syn, fun i hi => ?lambda,
    fun k hk => ⟨?errloc, ?errval⟩, fun i hi => ?cw⟩
  case scalars =>
    intro off hoff
    have hscalar : off ∈
        [Loc.cmd, .status, .rsN, .rsNsym, .rsL, .rsErrcnt, .ffSize, .ffIdx, .ffCnt, .ffData, .ffLast].map
          offsetOf := hoff
    obtain ⟨l, hl, rfl⟩ := List.mem_map.mp hscalar
    have hvalue : scalarAt (offsetOf l) = some l ∧ State.reset.valueAt l = 0 := by
      revert l
      decide
    exact readsNat_reset_zero (scalarAt_eq_some hvalue.1 _).1 hvalue.2
  case syn => exact readsNat_reset_zero (l := .syn j) hj (congrArg (BitVec.setWidth 32) (replicate_zero_getD _ j))
  case lambda => exact readsNat_reset_zero (l := .lambda i) hi (congrArg (BitVec.setWidth 32) (replicate_zero_getD _ i))
  case errloc => exact readsNat_reset_zero (l := .errloc k) hk (congrArg (BitVec.setWidth 32) (replicate_zero_getD _ k))
  case errval => exact readsNat_reset_zero (l := .errval k) hk (congrArg (BitVec.setWidth 32) (replicate_zero_getD _ k))
  case cw => exact readOf_offsetOf (s := State.reset) (l := .cw i) hi

end Sys2Proof.Proofs
end
